-- ==== Sys2Proof/Word.lean ====
section
/-! DEFINITION. The word types of the block (00_scope.md rule R10; 30_encoding.md rules R70, R71; 20_memory.md
rules R44, R45). -/

namespace Sys2Proof

/-- An 8-bit register value, an 8-bit register address or one byte of a bus frame (R10). -/
abbrev Byte := BitVec 8

/-- A listener identifier, unsigned 16-bit (R10); 0 is the null listener (R170). -/
abbrev Lid := BitVec 16

/-- A host command word (R70). -/
abbrev CmdWord := BitVec 32

/-- A host response word (R71). -/
abbrev RspWord := BitVec 32

/-- A bus frame as one 24-bit pattern, the first byte transmitted in bits 23:16 (R82). -/
abbrev FrameWord := BitVec 24

/-- A pin value Pin(n), n in 0..15 (R12). -/
abbrev Pin := Fin 16

end Sys2Proof
end

