-- ==== Sys2Proof/Config.lean ====
section
/-! DEFINITION. The parameters of 00_scope.md rule R8 to which the spec gives no single value. They are opaque:
whatever is proved holds for every value. The parameters that have a value (the opcodes, the filler, the addresses,
IOCON_TIED_VALUE) stand in Sys2Proof/Decode.lean and Sys2Proof/Machine/Operands.lean. -/

namespace Sys2Proof

/-- EDGE_CONCURRENCY (R224): whether the environment may deliver an edge while a pass is in flight. -/
inductive EdgeConcurrency where
  | concurrent
  | serial
deriving DecidableEq, Repr, Inhabited

/-- One less than NHOST: an open parameter with NHOST ≥ 1 (R8, 92_eei_decisions.md D39; log entry 3). -/
opaque Config.nhostPred : Nat

/-- NHOST, the number of host contexts HOST[0] .. HOST[NHOST-1] (R6, R8). -/
def Config.nhost : Nat := Config.nhostPred + 1

/-- EDGE_CONCURRENCY, an open parameter (R8, R224, 92_eei_decisions.md D24; log entry 4). -/
opaque Config.edgeConcurrency : EdgeConcurrency

end Sys2Proof
end

