-- ==== Sys2Proof/Syntax.lean ====
section
/-! DEFINITION. The syntax: the names a command is made of and `Instr`, one constructor per row of
spec/opcode_table.json (39 host commands and the 2 bus frames). -/

namespace Sys2Proof

/-- The two ports (R8, R91). -/
inductive Port where
  | A
  | B
deriving DecidableEq, Repr

/-- The seven configuration concerns, in the order of their index c (R21, R75). -/
inductive Concern where
  | iodir    -- c = 0, direction
  | ipol     -- c = 1, input-polarity
  | gpinten  -- c = 2, interrupt-enable
  | defval   -- c = 3, default-comparison-value
  | intcon   -- c = 4, interrupt-mode
  | gppu     -- c = 5, pull-up
  | olat     -- c = 6, output-latch
deriving DecidableEq, Repr

/-- The five interrupt topologies (R28, R190). -/
inductive Topology where
  | none
  | tied
  | both
  | aOnly
  | bOnly
deriving DecidableEq, Repr

/-- The status codes of a response (R72). -/
inductive Status where
  | ok
  | invalidPin
  | invalidArgument
  | ioFailure
  | fatal
  | illegalCommand
  | notConstructed
  | alreadyConstructed
deriving DecidableEq, Repr

/-- The instructions. A pin operand `n` is an unsigned integer (R10, R73), in the syntax of R80 a value 0 to 255
(`Instr.wellFormed` checks it); the other operands are as wide as their fields (R74, R80). -/
inductive Instr where
  -- getters (41_pin_view_config.md R110 to R117)
  | getDir (n : Nat)
  | getIpol (n : Nat)
  | getInten (n : Nat)
  | getDefval (n : Nat)
  | getIntcon (n : Nat)
  | getPu (n : Nat)
  | get (n : Nat)
  -- setters (R118 to R125)
  | setDir (n : Nat) (v : Bool)
  | setIpol (n : Nat) (v : Bool)
  | setInten (n : Nat) (v : Bool)
  | setDefval (n : Nat) (v : Bool)
  | setIntcon (n : Nat) (v : Bool)
  | setPu (n : Nat) (v : Bool)
  | setOut (n : Nat) (v : Bool)
  -- write-commits (42_device_commit_read.md R140 to R154)
  | commitIodirA
  | commitIpolA
  | commitGpintenA
  | commitDefvalA
  | commitIntconA
  | commitGppuA
  | commitOlatA
  | commitIodirB
  | commitIpolB
  | commitGpintenB
  | commitDefvalB
  | commitIntconB
  | commitGppuB
  | commitOlatB
  -- listener management (43_listeners.md R171 to R174)
  | addPinListener (n : Nat) (lid : Lid)
  | removePinListener (n : Nat) (lid : Lid)
  | addGlobalListener (lid : Lid)
  | removeGlobalListener (lid : Lid)
  -- pin view handle (40_pin_addressing.md R99)
  | getPinView (n : Nat)
  -- register read (R156)
  | readReg (addr : Byte)
  -- construction (44_construction.md R192 to R196)
  | constructNone
  | constructTied
  | constructBoth
  | constructAOnly
  | constructBOnly
  -- bus frames (20_memory.md R44, R45; R82)
  | busWrite (addr : Byte) (value : Byte)
  | busRead (addr : Byte)
deriving DecidableEq, Repr

/-- An instruction's bits: a 32-bit command word, or a 24-bit frame (R70, R82). -/
inductive Code where
  | cmd (w : CmdWord)
  | frame (w : FrameWord)
deriving DecidableEq, Repr

/-- Why a word is no instruction (R77, R78, R82). -/
inductive Reject where
  /-- The OP value is unassigned (R78). -/
  | unassignedOp
  /-- Field A must be zero and is not (R77). -/
  | fieldANonZero
  /-- Field D (for a setter D[15:1]) must be zero and is not (R77). -/
  | fieldDNonZero
  /-- The first byte of a frame is neither WRITE_OPCODE nor READ_OPCODE (R82). -/
  | unknownFrame
  /-- The third byte of a read frame is not FILLER (R45, R82). -/
  | fillerWrong
deriving DecidableEq, Repr

/-- What the decoder answers: an instruction, or why the bits are none. -/
inductive Decoded where
  | ok (i : Instr)
  | reject (r : Reject)
deriving DecidableEq, Repr

end Sys2Proof
end

