-- ==== Sys2Proof/WellFormed.lean ====
section
/-! DEFINITION. Which instructions are well-formed: every operand within its field's range (30_encoding.md rules R73,
R80: "An operand out of its field's range is an assembly error. It is never truncated."). -/

namespace Sys2Proof

/-- A pin operand fits the 8-bit field A (R73, R80). Values 16 to 255 are encodable and raise InvalidPin when executed. -/
def pinOperandFits (n : Nat) : Bool := decide (n < 256)

/-- Every operand is in its field's range (R80). The operands `v`, `lid`, `addr` and `value` have the field's own
width as their type, so only a pin operand can be out of range. -/
def Instr.wellFormed : Instr → Bool
  | .getDir n => pinOperandFits n
  | .getIpol n => pinOperandFits n
  | .getInten n => pinOperandFits n
  | .getDefval n => pinOperandFits n
  | .getIntcon n => pinOperandFits n
  | .getPu n => pinOperandFits n
  | .get n => pinOperandFits n
  | .setDir n _ => pinOperandFits n
  | .setIpol n _ => pinOperandFits n
  | .setInten n _ => pinOperandFits n
  | .setDefval n _ => pinOperandFits n
  | .setIntcon n _ => pinOperandFits n
  | .setPu n _ => pinOperandFits n
  | .setOut n _ => pinOperandFits n
  | .commitIodirA => true
  | .commitIpolA => true
  | .commitGpintenA => true
  | .commitDefvalA => true
  | .commitIntconA => true
  | .commitGppuA => true
  | .commitOlatA => true
  | .commitIodirB => true
  | .commitIpolB => true
  | .commitGpintenB => true
  | .commitDefvalB => true
  | .commitIntconB => true
  | .commitGppuB => true
  | .commitOlatB => true
  | .addPinListener n _ => pinOperandFits n
  | .removePinListener n _ => pinOperandFits n
  | .addGlobalListener _ => true
  | .removeGlobalListener _ => true
  | .getPinView n => pinOperandFits n
  | .readReg _ => true
  | .constructNone => true
  | .constructTied => true
  | .constructBoth => true
  | .constructAOnly => true
  | .constructBOnly => true
  | .busWrite _ _ => true
  | .busRead _ => true

end Sys2Proof
end

