-- ==== Sys2Proof/Decode.lean ====
section
/-! DEFINITION. The decoder and the encoder of 30_encoding.md: the fields (R70), the opcode map (R76), legality (R77,
R78), the frame encodings (R82), and the encoder of the assembler's forms (R80). -/

namespace Sys2Proof

/-- OP = CMD[31:24] (R70). -/
def opField (w : CmdWord) : Byte := w.extractLsb' 24 8

/-- A = CMD[23:16] (R70). -/
def aField (w : CmdWord) : Byte := w.extractLsb' 16 8

/-- D = CMD[15:0] (R70). -/
def dField (w : CmdWord) : BitVec 16 := w.extractLsb' 0 16

/-- The value bit v = D[0] of a setter (R74). -/
def vBit (w : CmdWord) : Bool := (dField w).getLsbD 0

/-- WRITE_OPCODE (R8, R44; log entry 16). -/
def writeOpcode : Byte := 0x40

/-- READ_OPCODE (R8, R45; log entry 16). -/
def readOpcode : Byte := 0x41

/-- FILLER (R8, R45). -/
def filler : Byte := 0x00

/-- Byte 0 of a frame, the first transmitted: bits 23:16 (R44, R82). -/
def frameByte0 (f : FrameWord) : Byte := f.extractLsb' 16 8

/-- Byte 1 of a frame, the register address: bits 15:8 (R44, R82). -/
def frameByte1 (f : FrameWord) : Byte := f.extractLsb' 8 8

/-- Byte 2 of a frame, the value or the filler: bits 7:0 (R44, R45, R82). -/
def frameByte2 (f : FrameWord) : Byte := f.extractLsb' 0 8

/-- `Legal(cmd)`, as R77 writes it. -/
def legal (w : CmdWord) : Bool :=
  let op := (opField w).toNat
  let a := aField w
  let d := dField w
  if (0x10 ≤ op && op ≤ 0x16) || op == 0x44 || op == 0x50 then d == 0
  else if 0x20 ≤ op && op ≤ 0x26 then d.extractLsb' 1 15 == 0
  else if (0x30 ≤ op && op ≤ 0x36) || (0x38 ≤ op && op ≤ 0x3E) || (0x60 ≤ op && op ≤ 0x64) then a == 0 && d == 0
  else if op == 0x40 || op == 0x41 then true
  else if op == 0x42 || op == 0x43 then a == 0
  else false

/-- The instruction `i`, where field D must be zero (R77). -/
def needZeroD (w : CmdWord) (i : Instr) : Decoded :=
  if dField w = 0 then .ok i else .reject .fieldDNonZero

/-- The instruction `i`, where D[15:1] must be zero (R77). -/
def needBitD (w : CmdWord) (i : Instr) : Decoded :=
  if (dField w).extractLsb' 1 15 = 0 then .ok i else .reject .fieldDNonZero

/-- The instruction `i`, where field A must be zero (R77). -/
def needZeroA (w : CmdWord) (i : Instr) : Decoded :=
  if aField w = 0 then .ok i else .reject .fieldANonZero

/-- The instruction `i`, where fields A and D must be zero (R77). -/
def needZeroAD (w : CmdWord) (i : Instr) : Decoded :=
  if aField w = 0 then needZeroD w i else .reject .fieldANonZero

/-- The command of a 32-bit word, by the opcode map R76; every other word is rejected by name (R77, R78). -/
def decode (w : CmdWord) : Decoded :=
  match (opField w).toNat with

  | 0x10 => needZeroD w (.getDir (aField w).toNat)
  | 0x11 => needZeroD w (.getIpol (aField w).toNat)
  | 0x12 => needZeroD w (.getInten (aField w).toNat)
  | 0x13 => needZeroD w (.getDefval (aField w).toNat)
  | 0x14 => needZeroD w (.getIntcon (aField w).toNat)
  | 0x15 => needZeroD w (.getPu (aField w).toNat)
  | 0x16 => needZeroD w (.get (aField w).toNat)
  | 0x20 => needBitD w (.setDir (aField w).toNat (vBit w))
  | 0x21 => needBitD w (.setIpol (aField w).toNat (vBit w))
  | 0x22 => needBitD w (.setInten (aField w).toNat (vBit w))
  | 0x23 => needBitD w (.setDefval (aField w).toNat (vBit w))
  | 0x24 => needBitD w (.setIntcon (aField w).toNat (vBit w))
  | 0x25 => needBitD w (.setPu (aField w).toNat (vBit w))
  | 0x26 => needBitD w (.setOut (aField w).toNat (vBit w))
  | 0x30 => needZeroAD w .commitIodirA
  | 0x31 => needZeroAD w .commitIpolA
  | 0x32 => needZeroAD w .commitGpintenA
  | 0x33 => needZeroAD w .commitDefvalA
  | 0x34 => needZeroAD w .commitIntconA
  | 0x35 => needZeroAD w .commitGppuA
  | 0x36 => needZeroAD w .commitOlatA
  | 0x38 => needZeroAD w .commitIodirB
  | 0x39 => needZeroAD w .commitIpolB
  | 0x3A => needZeroAD w .commitGpintenB
  | 0x3B => needZeroAD w .commitDefvalB
  | 0x3C => needZeroAD w .commitIntconB
  | 0x3D => needZeroAD w .commitGppuB
  | 0x3E => needZeroAD w .commitOlatB
  | 0x40 => .ok (.addPinListener (aField w).toNat (dField w))
  | 0x41 => .ok (.removePinListener (aField w).toNat (dField w))
  | 0x42 => needZeroA w (.addGlobalListener (dField w))
  | 0x43 => needZeroA w (.removeGlobalListener (dField w))
  | 0x44 => needZeroD w (.getPinView (aField w).toNat)
  | 0x50 => needZeroD w (.readReg (aField w))
  | 0x60 => needZeroAD w .constructNone
  | 0x61 => needZeroAD w .constructTied
  | 0x62 => needZeroAD w .constructBoth
  | 0x63 => needZeroAD w .constructAOnly
  | 0x64 => needZeroAD w .constructBOnly
  | _ => .reject .unassignedOp

/-- The frame of a 24-bit word (R82): BUS_WRITE is 0x40, addr, value, and BUS_READ is 0x41, addr, 0x00. -/
def decodeFrame (f : FrameWord) : Decoded :=
  if frameByte0 f = writeOpcode then .ok (.busWrite (frameByte1 f) (frameByte2 f))
  else if frameByte0 f = readOpcode then
    (if frameByte2 f = filler then .ok (.busRead (frameByte1 f)) else .reject .fillerWrong)
  else .reject .unknownFrame

/-- The instruction of a command word or of a frame. -/
def decodeCode : Code → Decoded
  | .cmd w => decode w
  | .frame f => decodeFrame f

/-- A command word from its three fields (R70). -/
def cmdWord (op a : Byte) (d : BitVec 16) : CmdWord := op ++ a ++ d

/-- zext_16(v) for a boolean v (R10, R80). -/
def vWord (v : Bool) : BitVec 16 := if v then 1 else 0

/-- The write frame: WRITE_OPCODE, register address, value, in order of transmission (R44). -/
def writeFrame (addr value : Byte) : FrameWord := writeOpcode ++ addr ++ value

/-- The read frame: READ_OPCODE, register address, FILLER, in order of transmission (R45). -/
def readFrame (addr : Byte) : FrameWord := readOpcode ++ addr ++ filler

/-- The bits of an instruction (R76, R80, R82). -/
def encode : Instr → Code
  | .getDir n => .cmd (cmdWord 0x10 (BitVec.ofNat 8 n) 0)
  | .getIpol n => .cmd (cmdWord 0x11 (BitVec.ofNat 8 n) 0)
  | .getInten n => .cmd (cmdWord 0x12 (BitVec.ofNat 8 n) 0)
  | .getDefval n => .cmd (cmdWord 0x13 (BitVec.ofNat 8 n) 0)
  | .getIntcon n => .cmd (cmdWord 0x14 (BitVec.ofNat 8 n) 0)
  | .getPu n => .cmd (cmdWord 0x15 (BitVec.ofNat 8 n) 0)
  | .get n => .cmd (cmdWord 0x16 (BitVec.ofNat 8 n) 0)
  | .setDir n v => .cmd (cmdWord 0x20 (BitVec.ofNat 8 n) (vWord v))
  | .setIpol n v => .cmd (cmdWord 0x21 (BitVec.ofNat 8 n) (vWord v))
  | .setInten n v => .cmd (cmdWord 0x22 (BitVec.ofNat 8 n) (vWord v))
  | .setDefval n v => .cmd (cmdWord 0x23 (BitVec.ofNat 8 n) (vWord v))
  | .setIntcon n v => .cmd (cmdWord 0x24 (BitVec.ofNat 8 n) (vWord v))
  | .setPu n v => .cmd (cmdWord 0x25 (BitVec.ofNat 8 n) (vWord v))
  | .setOut n v => .cmd (cmdWord 0x26 (BitVec.ofNat 8 n) (vWord v))
  | .commitIodirA => .cmd (cmdWord 0x30 0 0)
  | .commitIpolA => .cmd (cmdWord 0x31 0 0)
  | .commitGpintenA => .cmd (cmdWord 0x32 0 0)
  | .commitDefvalA => .cmd (cmdWord 0x33 0 0)
  | .commitIntconA => .cmd (cmdWord 0x34 0 0)
  | .commitGppuA => .cmd (cmdWord 0x35 0 0)
  | .commitOlatA => .cmd (cmdWord 0x36 0 0)
  | .commitIodirB => .cmd (cmdWord 0x38 0 0)
  | .commitIpolB => .cmd (cmdWord 0x39 0 0)
  | .commitGpintenB => .cmd (cmdWord 0x3A 0 0)
  | .commitDefvalB => .cmd (cmdWord 0x3B 0 0)
  | .commitIntconB => .cmd (cmdWord 0x3C 0 0)
  | .commitGppuB => .cmd (cmdWord 0x3D 0 0)
  | .commitOlatB => .cmd (cmdWord 0x3E 0 0)
  | .addPinListener n lid => .cmd (cmdWord 0x40 (BitVec.ofNat 8 n) lid)
  | .removePinListener n lid => .cmd (cmdWord 0x41 (BitVec.ofNat 8 n) lid)
  | .addGlobalListener lid => .cmd (cmdWord 0x42 0 lid)
  | .removeGlobalListener lid => .cmd (cmdWord 0x43 0 lid)
  | .getPinView n => .cmd (cmdWord 0x44 (BitVec.ofNat 8 n) 0)
  | .readReg addr => .cmd (cmdWord 0x50 addr 0)
  | .constructNone => .cmd (cmdWord 0x60 0 0)
  | .constructTied => .cmd (cmdWord 0x61 0 0)
  | .constructBoth => .cmd (cmdWord 0x62 0 0)
  | .constructAOnly => .cmd (cmdWord 0x63 0 0)
  | .constructBOnly => .cmd (cmdWord 0x64 0 0)
  | .busWrite addr value => .frame (writeFrame addr value)
  | .busRead addr => .frame (readFrame addr)

/-- The bits `w` of a table row of `nbits` bits as a code: a frame has 24 bits (R82), a command 32 (R79). -/
def tableCode (nbits w : Nat) : Code :=
  if nbits ≤ 24 then .frame (BitVec.ofNat 24 w) else .cmd (BitVec.ofNat 32 w)

/-- The instruction the decoder reads from the bits `w` of a row of spec/opcode_table.json. -/
def decodeTableWord (nbits w : Nat) : Option Instr :=
  match decodeCode (tableCode nbits w) with
  | .ok i => some i
  | .reject _ => none

end Sys2Proof
end

