-- ==== Sys2Proof/Machine/Sparse.lean ====
section
/-! DEFINITION. Two small containers the state is made of, as plain lists in one canonical form: a map from numbers
(contexts, passes, the register space), keys strictly rising, and a set of listener identifiers (10_state.md rule R25),
strictly rising. -/

namespace Sys2Proof.Machine

/-- A finite map from numbers, as (key, value) pairs; its canonical form (`Sparse.wf`) has the keys strictly rising. -/
abbrev Sparse (α : Type) := List (Nat × α)

/-- The value at key `k`, if the map has one. -/
def Sparse.read {α : Type} : Sparse α → Nat → Option α
  | [], _ => none
  | (k', v) :: m, k => if k' = k then some v else Sparse.read m k

/-- The map with key `k` set to `v`. -/
def Sparse.write {α : Type} : Sparse α → Nat → α → Sparse α
  | [], k, v => [(k, v)]
  | (k', v') :: m, k, v =>
    if k < k' then (k, v) :: (k', v') :: m
    else if k = k' then (k, v) :: m
    else (k', v') :: Sparse.write m k v

/-- The map without key `k`. -/
def Sparse.clear {α : Type} (m : Sparse α) (k : Nat) : Sparse α := m.filter fun e => e.1 != k

/-- The canonical form: keys strictly rising. -/
def Sparse.wf {α : Type} : Sparse α → Bool
  | [] => true
  | (k, _) :: m => m.all (fun e => decide (k < e.1)) && Sparse.wf m

/-- The set `l` with `lid` in it, `l` strictly rising (R25; "G ∪ {lid}" of R171). -/
def lidAdd : List Lid → Lid → List Lid
  | [], lid => [lid]
  | x :: l, lid =>
    if lid.toNat < x.toNat then lid :: x :: l
    else if lid = x then x :: l
    else x :: lidAdd l lid

/-- The set `l` without `lid` (R25; "G \ {lid}" of R172). -/
def lidRemove (l : List Lid) (lid : Lid) : List Lid := l.filter fun x => x != lid

/-- The canonical form of a listener set: strictly rising, so each identifier at most once, and the null identifier no
member (R25, R170). -/
def lidSetWf : List Lid → Bool
  | [] => true
  | x :: l => x != 0 && l.all (fun y => decide (x.toNat < y.toNat)) && lidSetWf l

end Sys2Proof.Machine
end

