-- ==== Sys2Proof/Machine/State.lean ====
section
/-! DEFINITION. The state of the block (10_state.md rule R20), the environment's inputs and the block's outputs as plain
data (00_scope.md rules R6, R7), and the state after reset (70_reset_and_hazards.md rule R270). -/

namespace Sys2Proof.Machine

/-- A pair of bytes, one for each port (R21, R94). -/
structure PortPair where
  a : Byte
  b : Byte
deriving DecidableEq, Repr

/-- SR, the shadow register file: a pair of bytes for each concern (R21). -/
structure Shadow where
  iodir   : PortPair
  ipol    : PortPair
  gpinten : PortPair
  defval  : PortPair
  intcon  : PortPair
  gppu    : PortPair
  olat    : PortPair
deriving DecidableEq, Repr

/-- LC, the lifecycle state (R27). -/
inductive Lifecycle where
  | unconstructed
  | constructing
  | ready
  | fatal
deriving DecidableEq, Repr

/-- CS_N, the chip-select output: 0, 1 or UNSPEC (R29). -/
inductive CsLevel where
  | low
  | high
  | unspec
deriving DecidableEq, Repr

/-- A listener-set lock: FREE or HELD(pass j) (R32). -/
inductive Lock where
  | free
  | held (pass : Nat)
deriving DecidableEq, Repr

/-- A context that issues commands: HOST[k] (R6), or the listener context of pass j (R226). -/
inductive Ctx where
  | host (k : Nat)
  | listener (pass : Nat)
deriving DecidableEq, Repr

/-- An agent that takes steps of the block: a context or a router pass (R6, R30). -/
inductive Agent where
  | ctx (c : Ctx)
  | pass (j : Nat)
deriving DecidableEq, Repr

/-- BUS: IDLE or BUSY(owner) (R30), with the frame in flight while it is BUSY (R44, R45). -/
inductive Bus where
  | idle
  | busy (owner : Agent) (frame : FrameWord)
deriving DecidableEq, Repr

/-- FAULTS, the sticky fault record, a set of two possible members (R31). -/
structure FaultRecord where
  busConflict : Bool
  routerIo    : Bool
deriving DecidableEq, Repr

/-- The phase of a BUSY context (R36: "decode, setter read done, frame begun, waiting for a lock"; the others are the
places between the steps that R117, R190 and R52 give; log entry 5). -/
inductive Phase where
  /-- The command is presented; its decode step comes next. -/
  | decode
  /-- A setter has read the byte `b`; its write comes next (R118). -/
  | setterRead (b : Byte)
  /-- The next step is the command's FrameBegin (R117 step 2, R190 step 3). -/
  | frameReady
  /-- The frame is begun; the next step is its FrameEnd (R47). -/
  | frameBegun
  /-- A listener command past its decode step awaits its set's lock (R176). -/
  | waitLock
  /-- A construction's next step is the chip-select bring-up (R190 step 2). -/
  | bringUp
  /-- A construction's next step is its final step (R190). -/
  | final
  /-- Stuck after a bus conflict (R52). -/
  | stuck
deriving DecidableEq, Repr

/-- What a BUSY context is executing: the command, as its bits, and the command's phase (R36). -/
structure Job where
  code  : Code
  phase : Phase
deriving DecidableEq, Repr

/-- The stage of a router pass (R212). -/
inductive Stage where
  | readFlag
  | readCap
  | scan
  | dispatchGlobal
  | dispatchPin
  | next
deriving DecidableEq, Repr

/-- Where a pass stands inside its stage (R47, R215, R219, R52; log entry 5). -/
inductive PassPhase where
  /-- The stage's first step comes next. -/
  | ready
  /-- The stage's frame is begun (R47). -/
  | frameBegun
  /-- The set's lock is held and the iteration goes on (R215). -/
  | iterating
  /-- DISPATCH to `lid` is emitted and its DONE awaited (R219). -/
  | awaitDone (lid : Lid)
  /-- Stuck after a bus conflict (R52). -/
  | stuck
deriving DecidableEq, Repr

/-- The state of a router pass (R212). `queue` holds the ports still to come after the current port `port`. -/
structure Pass where
  queue : List Port
  port  : Port
  f     : Byte
  cap   : Byte
  pin   : Pin
  v     : Bool
  stage : Stage
  rem   : List Lid
  phase : PassPhase
deriving DecidableEq, Repr

/-- A frame's outcome, drawn by the transport (R50): OK with three response bytes, or FAIL. For a failed write frame
`landed` is the environment's draw of whether the chip took the value sent (R51). -/
inductive FrameOutcome where
  | ok (r0 r1 r2 : Byte)
  | fail (landed : Bool)
deriving DecidableEq, Repr

/-- The environment's draws for one step of an agent: the frame outcome (R50, R51, R66), the chip-select bring-up's
outcome (R191), and which remaining listener is dispatched next (R220). -/
structure Draw where
  frame     : FrameOutcome
  bringUpOk : Bool
  pick      : Nat
deriving DecidableEq, Repr

/-- The interrupt edge inputs (R210). -/
inductive IrqLine where
  | irqA
  | irqB
  | irqT
deriving DecidableEq, Repr

/-- What the environment lets happen next (R6, R7; log entry 1). -/
inductive EnvEvent where
  /-- Context `c` presents the command word `w` on the host command port (R7, R34). -/
  | command (c : Ctx) (w : CmdWord)
  /-- Agent `a` takes its next atomic step, with the environment's draws `d` for it (R9). -/
  | turn (a : Agent) (d : Draw)
  /-- A falling edge on input `x` (R210). -/
  | edge (x : IrqLine)
  /-- The DONE of pass `j`'s outstanding dispatch (R219). -/
  | done (j : Nat)
  /-- A reset of the block (R270). `landed` is the draw for a write frame it cuts short (log entry 8). -/
  | reset (landed : Bool)
deriving DecidableEq, Repr

/-- What the block puts on its output interfaces (R7). -/
inductive Output where
  /-- The response word of a command of context `c` (R71). -/
  | response (c : Ctx) (w : RspWord)
  /-- A frame begun by agent `a` (R47). -/
  | frame (a : Agent) (f : FrameWord)
  /-- The chip-select bring-up transaction (R191). -/
  | bringUp (c : Ctx)
  /-- `DISPATCH(lid, v, pin)` of pass `j` (R219). -/
  | dispatch (j : Nat) (lid : Lid) (v : Bool) (pin : Pin)
deriving DecidableEq, Repr

/-- What the block's write frames have left in the expander's registers (R40, R51): (address, byte) pairs, addresses
strictly rising. An unlisted address reads as nothing: no write of the block has reached it (log entry 6). -/
abbrev Memory := List Host.Cell

/-- The state: the tuple of R20, the listener contexts of R226, and the model's own fields `chip`, `nextPass`, `env`,
`cur`, `draw`, `trace` (INVENTORY.md, State). -/
structure State where
  /-- SR (R21). -/
  sr        : Shadow
  /-- G (R25). -/
  g         : List Lid
  /-- PL[0..15] (R25). -/
  pl        : Vector (List Lid) 16
  /-- LC (R27). -/
  lc        : Lifecycle
  /-- TOPO (R28). -/
  topo      : Topology
  /-- CS_N (R29). -/
  csN       : CsLevel
  /-- BUS (R30). -/
  bus       : Bus
  /-- FAULTS (R31). -/
  faults    : FaultRecord
  /-- LK_G (R32). -/
  lkG       : Lock
  /-- LK_PL[0..15] (R32). -/
  lkPl      : Vector Lock 16
  /-- PASSES, by pass identity (R33). -/
  passes    : Sparse Pass
  /-- HOSTCTX: the BUSY host contexts; an unlisted one is IDLE (R36). -/
  hosts     : Sparse Job
  /-- The listener contexts between DISPATCH and DONE: `none` is IDLE, `some job` BUSY (R226). What a reset
  and a fatal step do to them is log entries 17 and 15. -/
  listeners : Sparse (Option Job)
  /-- The identity of the next pass. -/
  nextPass  : Nat
  /-- The environment's view of the chip's registers as the block's write frames leave them (R51). -/
  chip      : Memory
  /-- The environment's coming events, oldest first (log entry 1). -/
  env       : List EnvEvent
  /-- The agent whose step this is. -/
  cur       : Agent
  /-- The environment's draws for this step. -/
  draw      : Draw
  /-- The outputs so far, oldest first (log entry 9). -/
  trace     : List Output
deriving DecidableEq, Repr

/-- Why the machine stops. The block itself never stops: its errors are responses and its faults are recorded. -/
inductive Fault where
  /-- Raised by the turn of a context that is to send a 24-bit word which is no frame (R82: "No other first byte is ever
  sent"; log entry 12). No event gives a context such a word, so no run of the block reaches it. Safe. -/
  | notAFrame
deriving DecidableEq, Repr

/-- Why an instruction has no meaning. -/
inductive Refusal where
  /-- Raised by an arm of `exec` whose instruction is not modelled; there is none. Safe. -/
  | notModelled (mnemonic : String)
deriving DecidableEq, Repr

/-- The shadow bytes after reset: direction all-1 on both ports, every other pair all-0 (R21, R270). -/
def Shadow.reset : Shadow :=
  { iodir := ⟨0xFF, 0xFF⟩, ipol := ⟨0, 0⟩, gpinten := ⟨0, 0⟩, defval := ⟨0, 0⟩, intcon := ⟨0, 0⟩, gppu := ⟨0, 0⟩,
    olat := ⟨0, 0⟩ }

/-- The draws a state holds where no turn has supplied any: read by no step (log entry 1). -/
def Draw.unused : Draw := { frame := .ok 0 0 0, bringUpOk := true, pick := 0 }

/-- The state after a reset of the block (R270); the model's own fields as log entries 1, 2, 6, 9 and 10 say. -/
def State.reset : State :=
  { sr := Shadow.reset, g := [], pl := Vector.replicate 16 [], lc := .unconstructed, topo := .none, csN := .unspec,
    bus := .idle, faults := ⟨false, false⟩, lkG := .free, lkPl := Vector.replicate 16 .free, passes := [], hosts := [],
    listeners := [], nextPass := 0, chip := [], env := [], cur := .ctx (.host 0), draw := Draw.unused, trace := [] }

end Sys2Proof.Machine
end

