-- ==== Sys2Proof/Machine/Flags.lean ====
section
/-! DEFINITION. The block has no condition codes or flags (10_state.md rule R35): a command's outcome is the status field
of its response word. This file holds that word: the status codes (30_encoding.md rule R72) and the response word (R71). -/

namespace Sys2Proof.Machine

/-- The code of a status (R72). -/
def statusCode (st : Status) : Byte :=
  match st with
  | .ok => 0x00
  | .invalidPin => 0x01
  | .invalidArgument => 0x02
  | .ioFailure => 0x03
  | .fatal => 0x04
  | .illegalCommand => 0x05
  | .notConstructed => 0x06
  | .alreadyConstructed => 0x07

/-- The response word: STATUS in 31:24, zero in 23:16, RESULT in 15:0 (R71). -/
def responseWord (st : Status) (result : BitVec 16) : RspWord := statusCode st ++ (0 : Byte) ++ result

/-- The RESULT of a boolean: zext_16 (R71, R110). -/
def boolResult (b : Bool) : BitVec 16 := if b then 1 else 0

/-- The RESULT of a register byte: zext_16 (R71, R156). -/
def byteResult (b : Byte) : BitVec 16 := b.setWidth 16

/-- The RESULT of a view handle: RESULT[3:0] = n (R71, R99). -/
def handleResult (p : Pin) : BitVec 16 := BitVec.ofNat 16 p.val

end Sys2Proof.Machine
end

