-- ==== Sys2Proof/Machine/Operands.lean ====
section
/-! DEFINITION. Pin addressing and the configuration multiplexer (40_pin_addressing.md rules R90 to R98), access to the
shadow register file (10_state.md rule R21), and the expander's register addresses (20_memory.md rule R41). -/

namespace Sys2Proof.Machine

/-- `fromIdentifier(n)`: Pin(n), or nothing where R90 raises InvalidPin (n > 15). -/
def fromIdentifier (n : Nat) : Option Pin := if h : n < 16 then some ⟨n, h⟩ else none

/-- `port(p)`: A for 0 to 7, B for 8 to 15 (R91). -/
def portOf (p : Pin) : Port := if p.val ≥ 8 then .B else .A

/-- `bitIndex(p)`: n mod 8 (R92). -/
def bitIndex (p : Pin) : Nat := p.val % 8

/-- `mask(p)`: 1 << bitIndex(p) (R93). -/
def maskOf (p : Pin) : Byte := 1#8 <<< bitIndex p

/-- `resolveByte(p, bA, bB)`, the port multiplexer (R94). -/
def resolveByte (p : Pin) (bA bB : Byte) : Byte := if portOf p = .A then bA else bB

/-- `getBit(p, b)`: (b & mask(p)) != 0 (R95). -/
def getBit (p : Pin) (b : Byte) : Bool := (b &&& maskOf p) != 0

/-- `setBit(p, b, v)` (R96). -/
def setBit (p : Pin) (b : Byte) (v : Bool) : Byte := if v then b ||| maskOf p else b &&& ~~~(maskOf p)

/-- `pinOf(P, i)`: Pin(8*P + i) (R97). -/
def pinOf (P : Port) (i : Fin 8) : Pin :=
  match P with
  | .A => ⟨i.val, by omega⟩
  | .B => ⟨8 + i.val, by omega⟩

/-- The lowest flagged bit of a flag byte, min of the i in 0..7 with f[i] = 1, where f is not 0 (R214). -/
def lowestFlag (f : Byte) : Option (Fin 8) :=
  ([0, 1, 2, 3, 4, 5, 6, 7] : List (Fin 8)).find? fun i => f.getLsbD i.val

/-- The half of a pair that belongs to a port (R21). -/
def PortPair.half (q : PortPair) (P : Port) : Byte :=
  match P with
  | .A => q.a
  | .B => q.b

/-- The pair with one half replaced. -/
def PortPair.setHalf (q : PortPair) (P : Port) (b : Byte) : PortPair :=
  match P with
  | .A => { q with a := b }
  | .B => { q with b := b }

/-- The pair of bytes of a concern (R21). -/
def Shadow.pair (sr : Shadow) (c : Concern) : PortPair :=
  match c with
  | .iodir => sr.iodir
  | .ipol => sr.ipol
  | .gpinten => sr.gpinten
  | .defval => sr.defval
  | .intcon => sr.intcon
  | .gppu => sr.gppu
  | .olat => sr.olat

/-- The file with the pair of one concern replaced. -/
def Shadow.setPair (sr : Shadow) (c : Concern) (q : PortPair) : Shadow :=
  match c with
  | .iodir => { sr with iodir := q }
  | .ipol => { sr with ipol := q }
  | .gpinten => { sr with gpinten := q }
  | .defval => { sr with defval := q }
  | .intcon => { sr with intcon := q }
  | .gppu => { sr with gppu := q }
  | .olat => { sr with olat := q }

/-- `SR[c][P]` (R11, R21). -/
def Shadow.get (sr : Shadow) (c : Concern) (P : Port) : Byte := (sr.pair c).half P

/-- `SR[c][P] <- b` (R11, R21). -/
def Shadow.set (sr : Shadow) (c : Concern) (P : Port) (b : Byte) : Shadow :=
  sr.setPair c ((sr.pair c).setHalf P b)

/-- The shadow bit of pin `p` for concern `c`: getBit(p, SR[c][port(p)]) (R22, R94, R110). -/
def Shadow.pinBit (sr : Shadow) (c : Concern) (p : Pin) : Bool :=
  getBit p (resolveByte p (sr.get c .A) (sr.get c .B))

/-- The port as a number, A = 0 and B = 1 (R11). -/
def portNumber (P : Port) : Byte :=
  match P with
  | .A => 0
  | .B => 1

/-- The port-A address of a concern's slot (R41; its numbers are from general knowledge, log entry 16). -/
def slotAddr (c : Concern) : Byte :=
  match c with
  | .iodir => 0x00
  | .ipol => 0x02
  | .gpinten => 0x04
  | .defval => 0x06
  | .intcon => 0x08
  | .gppu => 0x0C
  | .olat => 0x14

/-- `addr(c, P)`, the expander address of concern c, port P (R41). -/
def concernAddr (c : Concern) (P : Port) : Byte := slotAddr c + portNumber P

/-- ADDR_IOCON (R41, R42). -/
def addrIocon : Byte := 0x0A

/-- IOCON_TIED_VALUE, the mirror bit alone (R8, R43; log entry 16). -/
def ioconTiedValue : Byte := 0x40

/-- ADDR_INTF(P) (R41). -/
def addrIntf (P : Port) : Byte := 0x0E + portNumber P

/-- ADDR_INTCAP(P) (R41). -/
def addrIntcap (P : Port) : Byte := 0x10 + portNumber P

/-- ADDR_GPIO(P) (R41). -/
def addrGpio (P : Port) : Byte := 0x12 + portNumber P

end Sys2Proof.Machine
end

