-- ==== Sys2Proof/Machine/Ops.lean ====
section
/-! DEFINITION. The shared operations the meanings are written over: contexts and their responses (10_state.md rule R36,
00_scope.md rule R11), raising an error (60_exceptions.md rules R240 to R250: the block's one kind of exception), the
decode checks (R246), bus frames (20_memory.md rules R47 to R52), listener sets and their locks (43_listeners.md), and the
router's fatal step (45_interrupt_router.md rule R223). -/

namespace Sys2Proof.Machine

-- ---- contexts and outputs ----

/-- The job of a context: nothing where it is IDLE (R36). -/
def State.job (s : State) (c : Ctx) : Option Job :=
  match c with
  | .host k => Sparse.read s.hosts k
  | .listener j => (Sparse.read s.listeners j).join

/-- The state with context `c` BUSY with `job` (R36). -/
def State.setJob (s : State) (c : Ctx) (job : Job) : State :=
  match c with
  | .host k => { s with hosts := Sparse.write s.hosts k job }
  | .listener j => { s with listeners := Sparse.write s.listeners j (some job) }

/-- The state with context `c` IDLE (R36). -/
def State.endJob (s : State) (c : Ctx) : State :=
  match c with
  | .host k => { s with hosts := Sparse.clear s.hosts k }
  | .listener j =>
    match Sparse.read s.listeners j with
    | some _ => { s with listeners := Sparse.write s.listeners j none }
    | none => s

/-- The phase of the context whose step this is, an IDLE context being about to take its decode step; nothing where a
pass has the step, since a pass issues no command (R6, R36). -/
def State.phase (s : State) : Option Phase :=
  match s.cur with
  | .ctx c =>
    match s.job c with
    | some job => some job.phase
    | none => some .decode
  | .pass _ => none

/-- The state with one more output (R7). -/
def State.emit (s : State) (o : Output) : State := { s with trace := s.trace ++ [o] }

/-- The context stays BUSY with command `i`, in phase `ph` (R36). -/
def State.hold (s : State) (i : Instr) (ph : Phase) : State :=
  match s.cur with
  | .ctx c => s.setJob c { code := encode i, phase := ph }
  | .pass _ => s

/-- The command ends: its one response word goes out and its context is IDLE (R11 `respond`, R36, R71). -/
def State.complete (s : State) (st : Status) (result : BitVec 16) : State :=
  match s.cur with
  | .ctx c => (s.endJob c).emit (.response c (responseWord st result))
  | .pass _ => s

/-- `respond(v)`: the command ends with status OK and result v (R11). -/
def State.respond (s : State) (result : BitVec 16) : State := s.complete .ok result

/-- `raise E`: the command ends with status E and result 0, and no further state change. No error transfers control,
saves state or changes a mode: the response word is the whole report (R11, R250). -/
def State.raise (s : State) (st : Status) : State := s.complete st 0

-- ---- the decode step's checks ----

/-- The lifecycle checks of the decode step, in the order of R246, for a word that is legal: the status that ends the
command, if one does. -/
def State.entryStatus (s : State) (construction : Bool) : Option Status :=
  match s.lc, construction with
  | .fatal, _ => some .fatal
  | .constructing, true => some .alreadyConstructed
  | .ready, true => some .alreadyConstructed
  | .unconstructed, true => none
  | .unconstructed, false => some .notConstructed
  | .constructing, false => some .notConstructed
  | .ready, false => none

/-- The decode step of a command that is no construction: the checks of R246, then the command's own rule `k`. -/
def State.enter (s : State) (k : State → State) : State :=
  match s.entryStatus false with
  | some st => s.raise st
  | none => k s

/-- The decode step of a construction command (R190 step 1, R246). -/
def State.enterConstruction (s : State) (k : State → State) : State :=
  match s.entryStatus true with
  | some st => s.raise st
  | none => k s

/-- `p <- fromIdentifier(n)`, raising InvalidPin (R90, R241). -/
def State.withPin (s : State) (n : Nat) (k : Pin → State → State) : State :=
  match fromIdentifier n with
  | some p => k p s
  | none => s.raise .invalidPin

/-- A word that is no legal command: Fatal while LC = FATAL, else IllegalCommand, and no other effect (R77, R245, R246). -/
def State.illegalCommand (s : State) : State :=
  s.raise (if s.lc = .fatal then .fatal else .illegalCommand)

/-- The output FATAL (R27, R247). -/
def State.fatalOut (s : State) : Bool := decide (s.lc = .fatal)

-- ---- bus frames ----

/-- `FrameBegin` by the agent whose step this is, where BUS is IDLE; nothing where it is BUSY (R47). -/
def State.frameBegin (s : State) (f : FrameWord) : Option State :=
  match s.bus with
  | .idle => some ({ s with bus := .busy s.cur f, csN := .low }.emit (.frame s.cur f))
  | .busy _ _ => none

/-- The fault a `FrameBegin` records while another frame holds the bus (R52). -/
def State.busConflict (s : State) : State := { s with faults := { s.faults with busConflict := true } }

/-- What a frame that ends leaves in the chip's registers (R51): a write frame that is OK, or that fails and lands, sets
the addressed register to the value sent, whole; no other frame changes what the block's writes have left. -/
def chipAfter (bus : Bus) (o : FrameOutcome) (m : Memory) : Memory :=
  match bus with
  | .idle => m
  | .busy _ f =>
    if frameByte0 f = writeOpcode then
      match o with
      | .ok _ _ _ => Sparse.write m (frameByte1 f).toNat (frameByte2 f)
      | .fail true => Sparse.write m (frameByte1 f).toNat (frameByte2 f)
      | .fail false => m
    else m

/-- `FrameEnd`: CS_N to 1 and BUS to IDLE, on success and on failure (R29, R47). The outcome returned is `s.draw.frame`
(R50), and the chip is as R51 says. -/
def State.frameEnd (s : State) : State :=
  { s with csN := .high, bus := .idle, chip := chipAfter s.bus s.draw.frame s.chip }

/-- The FrameBegin step of command `i` (R47): the context then waits for its FrameEnd, or is stuck (R52). -/
def State.beginFrame (s : State) (i : Instr) (f : FrameWord) : State :=
  match s.frameBegin f with
  | some s' => s'.hold i .frameBegun
  | none => s.busConflict.hold i .stuck

/-- The FrameEnd step of a command: on FAIL, IOFailure after the release of chip-select (R48, R49, R243); on OK the
command goes on with the third response byte. -/
def State.endFrame (s : State) (k : Byte → State → State) : State :=
  match s.draw.frame with
  | .ok _ _ r2 => k r2 s.frameEnd
  | .fail _ => s.frameEnd.raise .ioFailure

/-- The canonical form of the register space: addresses strictly rising, each an 8-bit address (R40). -/
def Memory.wf (m : Memory) : Bool := Sparse.wf m && m.all fun e => decide (e.1 < 256)

/-- What the block's write frames have left at register address `a`, if one has reached it (R51). -/
def Memory.read (m : Memory) (a : Byte) : Option Byte := Sparse.read m a.toNat

-- ---- listener sets and locks ----

/-- The 17 listener sets: G and PL[n] (R25). -/
inductive SetId where
  | global
  | pin (p : Pin)
deriving DecidableEq, Repr

/-- The members of a listener set (R25). -/
def State.members (s : State) (t : SetId) : List Lid :=
  match t with
  | .global => s.g
  | .pin p => s.pl[p]

/-- The state with a listener set replaced. -/
def State.setMembers (s : State) (t : SetId) (l : List Lid) : State :=
  match t with
  | .global => { s with g := l }
  | .pin p => { s with pl := s.pl.set p l }

/-- The lock of a listener set (R32). -/
def State.lock (s : State) (t : SetId) : Lock :=
  match t with
  | .global => s.lkG
  | .pin p => s.lkPl[p]

/-- The state with the lock of a listener set replaced. -/
def State.setLock (s : State) (t : SetId) (l : Lock) : State :=
  match t with
  | .global => { s with lkG := l }
  | .pin p => { s with lkPl := s.lkPl.set p l }

/-- The atomic step of an add or a remove, taken while the set's lock is FREE and waiting otherwise (R170, R176). -/
def State.whenFree (s : State) (t : SetId) (k : State → State) : State :=
  match s.lock t with
  | .free => k s
  | .held _ => s

/-- The atomic step of an add: null, then duplicate, raise InvalidArgument; else the identifier joins the set (R171, R173,
R242). -/
def State.addMember (s : State) (t : SetId) (lid : Lid) : State :=
  if lid = 0 then s.raise .invalidArgument
  else if lid ∈ s.members t then s.raise .invalidArgument
  else (s.setMembers t (lidAdd (s.members t) lid)).respond 0

/-- The atomic step of a remove: null, then absent, raise InvalidArgument; else the identifier leaves the set (R172, R174,
R242). -/
def State.removeMember (s : State) (t : SetId) (lid : Lid) : State :=
  if lid = 0 then s.raise .invalidArgument
  else if lid ∈ s.members t then (s.setMembers t (lidRemove (s.members t) lid)).respond 0
  else s.raise .invalidArgument

-- ---- passes ----

/-- The state with pass `j` in state `p` (R33). -/
def State.setPass (s : State) (j : Nat) (p : Pass) : State := { s with passes := Sparse.write s.passes j p }

/-- The state without pass `j`: it has completed (R225). -/
def State.endPass (s : State) (j : Nat) : State := { s with passes := Sparse.clear s.passes j }

/-- A lock after the release of every lock that a pass in `ps` holds (R223). -/
def releaseLock (ps : Sparse Pass) (l : Lock) : Lock :=
  match l with
  | .free => .free
  | .held j => if (Sparse.read ps j).isSome then .free else .held j

/-- `RouterFatal`, one atomic step: ROUTER_IO is recorded, LC becomes FATAL, every pass ends and its locks are released
(R223, R247). A listener's context stays until its DONE (log entry 15). -/
def State.routerFatal (s : State) : State :=
  { s with
    faults := { s.faults with routerIo := true }
    lc := .fatal
    lkG := releaseLock s.passes s.lkG
    lkPl := s.lkPl.map (releaseLock s.passes)
    passes := [] }

end Sys2Proof.Machine
end

