-- ==== Sys2Proof/Machine/Commit.lean ====
section
/-! DEFINITION. Write-commit and register read (42_device_commit_read.md rules R140 to R156). -/

namespace Sys2Proof.Machine

/-- The commit template, two atomic steps: decode, sample of the shadow byte and FrameBegin; then FrameEnd (R140). SR does
not change. -/
def commit (i : Instr) (c : Concern) (P : Port) (s : State) : State :=
  match s.phase with
  | some .decode => s.enter fun s => s.beginFrame i (writeFrame (concernAddr c P) (s.sr.get c P))
  | some .frameBegun => s.endFrame fun _ s => s.respond 0
  | _ => s

/-- `COMMIT_IODIRA` (R141). -/
def execCommitIodirA (s : State) : Host.Outcome State Fault Refusal := .next (commit .commitIodirA .iodir .A s)

/-- `COMMIT_IPOLA` (R142). -/
def execCommitIpolA (s : State) : Host.Outcome State Fault Refusal := .next (commit .commitIpolA .ipol .A s)

/-- `COMMIT_GPINTENA` (R143). -/
def execCommitGpintenA (s : State) : Host.Outcome State Fault Refusal := .next (commit .commitGpintenA .gpinten .A s)

/-- `COMMIT_DEFVALA` (R144). -/
def execCommitDefvalA (s : State) : Host.Outcome State Fault Refusal := .next (commit .commitDefvalA .defval .A s)

/-- `COMMIT_INTCONA` (R145). -/
def execCommitIntconA (s : State) : Host.Outcome State Fault Refusal := .next (commit .commitIntconA .intcon .A s)

/-- `COMMIT_GPPUA` (R146). -/
def execCommitGppuA (s : State) : Host.Outcome State Fault Refusal := .next (commit .commitGppuA .gppu .A s)

/-- `COMMIT_OLATA` (R147). -/
def execCommitOlatA (s : State) : Host.Outcome State Fault Refusal := .next (commit .commitOlatA .olat .A s)

/-- `COMMIT_IODIRB` (R148). -/
def execCommitIodirB (s : State) : Host.Outcome State Fault Refusal := .next (commit .commitIodirB .iodir .B s)

/-- `COMMIT_IPOLB` (R149). -/
def execCommitIpolB (s : State) : Host.Outcome State Fault Refusal := .next (commit .commitIpolB .ipol .B s)

/-- `COMMIT_GPINTENB` (R150). -/
def execCommitGpintenB (s : State) : Host.Outcome State Fault Refusal := .next (commit .commitGpintenB .gpinten .B s)

/-- `COMMIT_DEFVALB` (R151). -/
def execCommitDefvalB (s : State) : Host.Outcome State Fault Refusal := .next (commit .commitDefvalB .defval .B s)

/-- `COMMIT_INTCONB` (R152). -/
def execCommitIntconB (s : State) : Host.Outcome State Fault Refusal := .next (commit .commitIntconB .intcon .B s)

/-- `COMMIT_GPPUB` (R153). -/
def execCommitGppuB (s : State) : Host.Outcome State Fault Refusal := .next (commit .commitGppuB .gppu .B s)

/-- `COMMIT_OLATB` (R154). -/
def execCommitOlatB (s : State) : Host.Outcome State Fault Refusal := .next (commit .commitOlatB .olat .B s)

/-- `READ_REG addr`, two atomic steps: decode and FrameBegin; then FrameEnd and the byte read (R156). -/
def execReadReg (addr : Byte) (s : State) : Host.Outcome State Fault Refusal :=
  .next <|
    match s.phase with
    | some .decode => s.enter fun s => s.beginFrame (.readReg addr) (readFrame addr)
    | some .frameBegun => s.endFrame fun r s => s.respond (byteResult r)
    | _ => s

end Sys2Proof.Machine
end

