-- ==== Sys2Proof/Machine/Construct.lean ====
section
/-! DEFINITION. Construction (44_construction.md rules R190 to R198). -/

namespace Sys2Proof.Machine

/-- A construction that fails: LC back to UNCONSTRUCTED and IOFailure (R190, R243). -/
def State.constructFails (s : State) : State := { s with lc := .unconstructed }.raise .ioFailure

/-- The chip-select bring-up step (R190 step 2, R191): on OK, CS_N is 1 and the construction goes on in phase `ph`; on
FAIL, CS_N keeps its value and the construction fails. -/
def State.csBringUp (s : State) (i : Instr) (ph : Phase) : State :=
  match s.cur with
  | .ctx c =>
    if s.draw.bringUpOk then ({ s with csN := .high }.emit (.bringUp c)).hold i ph
    else (s.emit (.bringUp c)).constructFails
  | .pass _ => s

/-- The final step: the topology's inputs are bound and LC is READY (R190). -/
def State.constructDone (s : State) (t : Topology) : State := { s with topo := t, lc := .ready }.respond 0

/-- The steps of a construction without an IOCON frame: decode, bring-up, final step (R190, R192, R194 to R196). -/
def constructPlain (i : Instr) (t : Topology) (s : State) : State :=
  match s.phase with
  | some .decode => s.enterConstruction fun s => { s with lc := .constructing }.hold i .bringUp
  | some .bringUp => s.csBringUp i .final
  | some .final => s.constructDone t
  | _ => s

/-- `CONSTRUCT_NONE` (R192). -/
def execConstructNone (s : State) : Host.Outcome State Fault Refusal := .next (constructPlain .constructNone .none s)

/-- `CONSTRUCT_TIED` (R193): after the bring-up, the IOCON write frame 40 0A 40 in two steps, then the final step. -/
def execConstructTied (s : State) : Host.Outcome State Fault Refusal :=
  .next <|
    match s.phase with
    | some .decode => s.enterConstruction fun s => { s with lc := .constructing }.hold .constructTied .bringUp
    | some .bringUp => s.csBringUp .constructTied .frameReady
    | some .frameReady => s.beginFrame .constructTied (writeFrame addrIocon ioconTiedValue)
    | some .frameBegun =>
      match s.draw.frame with
      | .ok _ _ _ => s.frameEnd.hold .constructTied .final
      | .fail _ => s.frameEnd.constructFails
    | some .final => s.constructDone .tied
    | _ => s

/-- `CONSTRUCT_BOTH` (R194). -/
def execConstructBoth (s : State) : Host.Outcome State Fault Refusal := .next (constructPlain .constructBoth .both s)

/-- `CONSTRUCT_A_ONLY` (R195). -/
def execConstructAOnly (s : State) : Host.Outcome State Fault Refusal := .next (constructPlain .constructAOnly .aOnly s)

/-- `CONSTRUCT_B_ONLY` (R196). -/
def execConstructBOnly (s : State) : Host.Outcome State Fault Refusal := .next (constructPlain .constructBOnly .bOnly s)

end Sys2Proof.Machine
end

