-- ==== Sys2Proof/Machine/Frames.lean ====
section
/-! DEFINITION. The bus frames as instructions: BUS_WRITE and BUS_READ are MemWrite and MemRead, two atomic steps of their
owner (20_memory.md rules R44 to R49). The owner the block has for a bare frame is a router pass, whose flag and capture
reads are BUS_READ frames (45_interrupt_router.md rules R213, R222, R223). -/

namespace Sys2Proof.Machine

/-- The stages of a pass that send a frame (R212, R213). -/
def Stage.sendsFrame (st : Stage) : Bool :=
  match st with
  | .readFlag => true
  | .readCap => true
  | .scan => false
  | .dispatchGlobal => false
  | .dispatchPin => false
  | .next => false

/-- A pass after its read returned the byte `r`: the flag byte, then the capture byte (R212, R213). A write frame returns
no byte, and the pass only goes on. -/
def Pass.afterFrame (p : Pass) (r : Option Byte) : Pass :=
  match r, p.stage with
  | some b, .readFlag => { p with f := b, stage := .readCap, phase := .ready }
  | some b, .readCap => { p with cap := b, stage := .scan, phase := .ready }
  | _, _ => { p with phase := .ready }

/-- The step of a bare frame `i` with bits `f`, taken by the agent whose step this is: FrameBegin, then FrameEnd (R47 to
R49). `value` picks what the frame returns from the third response byte. In a pass the outcome goes to the pass, and a FAIL
is fatal in the same step (R223; log entry 7); in a context it is the response (log entry 12). -/
def frameStep (i : Instr) (f : FrameWord) (value : Byte → Option Byte) (s : State) : State :=
  match s.cur with
  | .ctx _ =>
    match s.phase with
    | some .decode => s.beginFrame i f
    | some .frameBegun => s.endFrame fun r s => s.respond (byteResult ((value r).getD 0))
    | _ => s
  | .pass j =>
    match Sparse.read s.passes j with
    | none => s
    | some p =>
      if p.stage.sendsFrame then
        match p.phase with
        | .ready =>
          match s.frameBegin f with
          | some s' => s'.setPass j { p with phase := .frameBegun }
          | none => s.busConflict.setPass j { p with phase := .stuck }
        | .frameBegun =>
          match s.draw.frame with
          | .ok _ _ r2 => s.frameEnd.setPass j (p.afterFrame (value r2))
          | .fail _ => s.frameEnd.routerFatal
        | _ => s
      else s

/-- `BUS_WRITE addr, value` (R44, R48): the three response bytes are ignored. -/
def execBusWrite (addr : Byte) (value : Byte) (s : State) : Host.Outcome State Fault Refusal :=
  .next (frameStep (.busWrite addr value) (writeFrame addr value) (fun _ => none) s)

/-- `BUS_READ addr` (R45, R49): the third response byte is the register value. -/
def execBusRead (addr : Byte) (s : State) : Host.Outcome State Fault Refusal :=
  .next (frameStep (.busRead addr) (readFrame addr) some s)

end Sys2Proof.Machine
end

