-- ==== Sys2Proof/Machine/Listeners.lean ====
section
/-! DEFINITION. Listener management (43_listeners.md rules R170 to R177). Each command has its decode step, then waits for
its set's lock, then takes the set step (00_scope.md rule R9). -/

namespace Sys2Proof.Machine

/-- The template of the global listener commands: decode, then `act` on G while LK_G is FREE (R171, R172, R176). -/
def globalListener (i : Instr) (act : State → State) (s : State) : State :=
  match s.phase with
  | some .decode => s.enter fun s => s.hold i .waitLock
  | some .waitLock => s.whenFree .global act
  | _ => s

/-- The template of the pin listener commands: decode, which may raise InvalidPin, then `act` on PL[n] while LK_PL[n] is
FREE (R173, R174, R176, R241). -/
def pinListener (i : Instr) (n : Nat) (act : Pin → State → State) (s : State) : State :=
  match s.phase with
  | some .decode => s.enter fun s => s.withPin n fun _ s => s.hold i .waitLock
  | some .waitLock => s.withPin n fun p s => s.whenFree (.pin p) (act p)
  | _ => s

/-- `ADD_GLOBAL_LISTENER lid` (R171). -/
def execAddGlobalListener (lid : Lid) (s : State) : Host.Outcome State Fault Refusal :=
  .next (globalListener (.addGlobalListener lid) (fun s => s.addMember .global lid) s)

/-- `REMOVE_GLOBAL_LISTENER lid` (R172). -/
def execRemoveGlobalListener (lid : Lid) (s : State) : Host.Outcome State Fault Refusal :=
  .next (globalListener (.removeGlobalListener lid) (fun s => s.removeMember .global lid) s)

/-- `ADD_PIN_LISTENER n, lid` (R173). -/
def execAddPinListener (n : Nat) (lid : Lid) (s : State) : Host.Outcome State Fault Refusal :=
  .next (pinListener (.addPinListener n lid) n (fun p s => s.addMember (.pin p) lid) s)

/-- `REMOVE_PIN_LISTENER n, lid` (R174). -/
def execRemovePinListener (n : Nat) (lid : Lid) (s : State) : Host.Outcome State Fault Refusal :=
  .next (pinListener (.removePinListener n lid) n (fun p s => s.removeMember (.pin p) lid) s)

end Sys2Proof.Machine
end

