-- ==== Sys2Proof/Machine/PinView.lean ====
section
/-! DEFINITION. The pin view commands: the configuration getters, GET, the setters (41_pin_view_config.md) and
GET_PIN_VIEW (40_pin_addressing.md rule R99). -/

namespace Sys2Proof.Machine

/-- The getter template: one atomic step that responds the pin's shadow bit (R110). -/
def getter (c : Concern) (n : Nat) (s : State) : State :=
  match s.phase with
  | some .decode => s.enter fun s => s.withPin n fun p s => s.respond (boolResult (s.sr.pinBit c p))
  | _ => s

/-- `GET n` (R117). Step 1 reads the direction: an output pin responds the OLAT shadow bit. An input pin takes two more
steps, the frame that reads GPIO, and responds the bit read, with no inversion. -/
def getValue (n : Nat) (s : State) : State :=
  match s.phase with
  | some .decode =>
    s.enter fun s => s.withPin n fun p s =>
      if s.sr.pinBit .iodir p then s.hold (.get n) .frameReady
      else s.respond (boolResult (s.sr.pinBit .olat p))
  | some .frameReady => s.withPin n fun p s => s.beginFrame (.get n) (readFrame (addrGpio (portOf p)))
  | some .frameBegun => s.endFrame fun r s => s.withPin n fun p s => s.respond (boolResult (getBit p r))
  | _ => s

/-- The setter template, two atomic steps: decode and read of the byte, then the write of the byte (R118). -/
def setter (i : Instr) (c : Concern) (n : Nat) (v : Bool) (s : State) : State :=
  match s.phase with
  | some .decode => s.enter fun s => s.withPin n fun p s => s.hold i (.setterRead (s.sr.get c (portOf p)))
  | some (.setterRead b) =>
    s.withPin n fun p s => { s with sr := s.sr.set c (portOf p) (setBit p b v) }.respond 0
  | _ => s

/-- `GET_DIR n` (R111). -/
def execGetDir (n : Nat) (s : State) : Host.Outcome State Fault Refusal := .next (getter .iodir n s)

/-- `GET_IPOL n` (R112). -/
def execGetIpol (n : Nat) (s : State) : Host.Outcome State Fault Refusal := .next (getter .ipol n s)

/-- `GET_INTEN n` (R113). -/
def execGetInten (n : Nat) (s : State) : Host.Outcome State Fault Refusal := .next (getter .gpinten n s)

/-- `GET_DEFVAL n` (R114). -/
def execGetDefval (n : Nat) (s : State) : Host.Outcome State Fault Refusal := .next (getter .defval n s)

/-- `GET_INTCON n` (R115). -/
def execGetIntcon (n : Nat) (s : State) : Host.Outcome State Fault Refusal := .next (getter .intcon n s)

/-- `GET_PU n` (R116). -/
def execGetPu (n : Nat) (s : State) : Host.Outcome State Fault Refusal := .next (getter .gppu n s)

/-- `GET n` (R117). -/
def execGet (n : Nat) (s : State) : Host.Outcome State Fault Refusal := .next (getValue n s)

/-- `SET_DIR n, v` (R119). -/
def execSetDir (n : Nat) (v : Bool) (s : State) : Host.Outcome State Fault Refusal :=
  .next (setter (.setDir n v) .iodir n v s)

/-- `SET_IPOL n, v` (R120). -/
def execSetIpol (n : Nat) (v : Bool) (s : State) : Host.Outcome State Fault Refusal :=
  .next (setter (.setIpol n v) .ipol n v s)

/-- `SET_INTEN n, v` (R121). -/
def execSetInten (n : Nat) (v : Bool) (s : State) : Host.Outcome State Fault Refusal :=
  .next (setter (.setInten n v) .gpinten n v s)

/-- `SET_DEFVAL n, v` (R122). -/
def execSetDefval (n : Nat) (v : Bool) (s : State) : Host.Outcome State Fault Refusal :=
  .next (setter (.setDefval n v) .defval n v s)

/-- `SET_INTCON n, v` (R123). -/
def execSetIntcon (n : Nat) (v : Bool) (s : State) : Host.Outcome State Fault Refusal :=
  .next (setter (.setIntcon n v) .intcon n v s)

/-- `SET_PU n, v` (R124). -/
def execSetPu (n : Nat) (v : Bool) (s : State) : Host.Outcome State Fault Refusal :=
  .next (setter (.setPu n v) .gppu n v s)

/-- `SET_OUT n, v` (R125). -/
def execSetOut (n : Nat) (v : Bool) (s : State) : Host.Outcome State Fault Refusal :=
  .next (setter (.setOut n v) .olat n v s)

/-- `GET_PIN_VIEW n`: the handle of the pin's view (R99); the views exist from reset (R26). -/
def execGetPinView (n : Nat) (s : State) : Host.Outcome State Fault Refusal :=
  .next <|
    match s.phase with
    | some .decode => s.enter fun s => s.withPin n fun p s => s.respond (handleResult p)
    | _ => s

end Sys2Proof.Machine
end

