-- ==== Sys2Proof/Machine/Dispatch.lean ====
section
/-! DEFINITION. The dispatch of an instruction to its meaning, one arm per constructor. -/

namespace Sys2Proof.Machine

/-- One atomic step (00_scope.md rule R9) of instruction `i`, taken by the agent `s.cur`: the step that the phase of that
agent makes the next one. -/
def exec (i : Instr) (s : State) : Host.Outcome State Fault Refusal :=
  match i with
  | .getDir n => Sys2Proof.Machine.execGetDir n s
  | .getIpol n => Sys2Proof.Machine.execGetIpol n s
  | .getInten n => Sys2Proof.Machine.execGetInten n s
  | .getDefval n => Sys2Proof.Machine.execGetDefval n s
  | .getIntcon n => Sys2Proof.Machine.execGetIntcon n s
  | .getPu n => Sys2Proof.Machine.execGetPu n s
  | .get n => Sys2Proof.Machine.execGet n s
  | .setDir n v => Sys2Proof.Machine.execSetDir n v s
  | .setIpol n v => Sys2Proof.Machine.execSetIpol n v s
  | .setInten n v => Sys2Proof.Machine.execSetInten n v s
  | .setDefval n v => Sys2Proof.Machine.execSetDefval n v s
  | .setIntcon n v => Sys2Proof.Machine.execSetIntcon n v s
  | .setPu n v => Sys2Proof.Machine.execSetPu n v s
  | .setOut n v => Sys2Proof.Machine.execSetOut n v s
  | .commitIodirA => Sys2Proof.Machine.execCommitIodirA s
  | .commitIpolA => Sys2Proof.Machine.execCommitIpolA s
  | .commitGpintenA => Sys2Proof.Machine.execCommitGpintenA s
  | .commitDefvalA => Sys2Proof.Machine.execCommitDefvalA s
  | .commitIntconA => Sys2Proof.Machine.execCommitIntconA s
  | .commitGppuA => Sys2Proof.Machine.execCommitGppuA s
  | .commitOlatA => Sys2Proof.Machine.execCommitOlatA s
  | .commitIodirB => Sys2Proof.Machine.execCommitIodirB s
  | .commitIpolB => Sys2Proof.Machine.execCommitIpolB s
  | .commitGpintenB => Sys2Proof.Machine.execCommitGpintenB s
  | .commitDefvalB => Sys2Proof.Machine.execCommitDefvalB s
  | .commitIntconB => Sys2Proof.Machine.execCommitIntconB s
  | .commitGppuB => Sys2Proof.Machine.execCommitGppuB s
  | .commitOlatB => Sys2Proof.Machine.execCommitOlatB s
  | .addPinListener n lid => Sys2Proof.Machine.execAddPinListener n lid s
  | .removePinListener n lid => Sys2Proof.Machine.execRemovePinListener n lid s
  | .addGlobalListener lid => Sys2Proof.Machine.execAddGlobalListener lid s
  | .removeGlobalListener lid => Sys2Proof.Machine.execRemoveGlobalListener lid s
  | .getPinView n => Sys2Proof.Machine.execGetPinView n s
  | .readReg addr => Sys2Proof.Machine.execReadReg addr s
  | .constructNone => Sys2Proof.Machine.execConstructNone s
  | .constructTied => Sys2Proof.Machine.execConstructTied s
  | .constructBoth => Sys2Proof.Machine.execConstructBoth s
  | .constructAOnly => Sys2Proof.Machine.execConstructAOnly s
  | .constructBOnly => Sys2Proof.Machine.execConstructBOnly s
  | .busWrite addr value => Sys2Proof.Machine.execBusWrite addr value s
  | .busRead addr => Sys2Proof.Machine.execBusRead addr s

end Sys2Proof.Machine
end

