-- ==== Sys2Proof/Machine/Events.lean ====
section
/-! DEFINITION. The events of the environment that are no agent's turn: a command word presented to a context
(10_state.md rules R34, R36), and a reset of the block (70_reset_and_hazards.md rule R270). -/

namespace Sys2Proof.Machine

/-- Whether a context is there and IDLE, so that it takes a command: HOST[k] for k < NHOST (R6, R36), or the listener context
of a dispatch that awaits its DONE (R226). -/
def State.accepts (s : State) (c : Ctx) : Bool :=
  match c with
  | .host k => decide (k < Config.nhost) && (Sparse.read s.hosts k).isNone
  | .listener j =>
    match Sparse.read s.listeners j with
    | some none => true
    | _ => false

/-- Context `c` presents the command word `w`: it is BUSY with it, in phase decode. A context that is BUSY accepts no new
command (R36; log entry 13). -/
def onCommand (c : Ctx) (w : CmdWord) (s : State) : State :=
  if s.accepts c then s.setJob c { code := .cmd w, phase := .decode } else s

/-- A reset of the block (R270): every piece of state of R20 at its reset value. The chip is not reset (R271); a write frame
that the reset cuts short leaves its register as R51 says, by the draw `landed` (log entry 8). Two things the spec does not
say are the model's choice: the listener contexts of R226 are gone, and later words and DONEs for them are dropped (log entry
17); a command in progress is dropped with its context's job, and no response word goes out for it (log entry 18). -/
def blockReset (landed : Bool) (s : State) : State :=
  { State.reset with
    nextPass := s.nextPass
    chip := chipAfter s.bus (.fail landed) s.chip
    env := s.env
    trace := s.trace }

end Sys2Proof.Machine
end

