-- ==== Sys2Proof/Machine/Router.lean ====
section
/-! DEFINITION. The interrupt router (45_interrupt_router.md rules R210 to R226): edges, the steps of a pass, and DONE. -/

namespace Sys2Proof.Machine

/-- The ports an edge on input `x` starts a pass over, in order, the first one apart; nothing where the topology does not
bind `x` (R28, R211). -/
def boundPorts (t : Topology) (x : IrqLine) : Option (Port × List Port) :=
  match t, x with
  | .aOnly, .irqA => some (.A, [])
  | .both, .irqA => some (.A, [])
  | .bOnly, .irqB => some (.B, [])
  | .both, .irqB => some (.B, [])
  | .tied, .irqT => some (.A, [.B])
  | _, _ => none

/-- A fresh pass over port `P` and then `queue` (R212; the values of f, cap, pin and v: log entry 10). -/
def Pass.fresh (P : Port) (queue : List Port) : Pass :=
  { queue := queue, port := P, f := 0, cap := 0, pin := 0, v := false, stage := .readFlag, rem := [], phase := .ready }

/-- `spawn Pass(queue)`: a fresh pass joins PASSES (R33, R211). -/
def State.spawn (s : State) (P : Port) (queue : List Port) : State :=
  { s.setPass s.nextPass (Pass.fresh P queue) with nextPass := s.nextPass + 1 }

/-- Whether the environment may deliver an edge now: under SERIAL, only while no pass is in flight (R224). -/
def State.edgeMayCome (s : State) : Bool := s.passes.isEmpty || Config.edgeConcurrency == .concurrent

/-- `OnEdge(x)` (R211): ignored and lost unless LC is READY and the topology binds `x`. -/
def onEdge (x : IrqLine) (s : State) : State :=
  match s.lc with
  | .ready =>
    match boundPorts s.topo x with
    | some (P, queue) => if s.edgeMayCome then s.spawn P queue else s
    | none => s
  | _ => s

/-- The bare frame that a pass's next step belongs to: the flag read, then the capture read, of its port (R213). -/
def Pass.frame (p : Pass) : Option Instr :=
  match p.stage with
  | .readFlag => some (.busRead (addrIntf p.port))
  | .readCap => some (.busRead (addrIntcap p.port))
  | _ => none

/-- The scan: with no flag the pass goes to its next port; else it takes the lowest flagged bit, its pin and its captured
value (R214, R217). -/
def Pass.scan (p : Pass) : Pass :=
  match lowestFlag p.f with
  | none => { p with stage := .next }
  | some i => { p with pin := pinOf p.port i, v := getBit (pinOf p.port i) p.cap, stage := .dispatchGlobal }

/-- Any member of the remaining listeners: the environment's draw chooses which (R215, R220). -/
def pickListener (pick : Nat) (rem : List Lid) : Lid := rem.getD (pick % rem.length) 0

/-- One step of `DispatchSet` over set `t` by pass `j` in state `p` (R215): take the lock while it is FREE, with `rem` the
set's members; then emit one DISPATCH after another, each awaiting its DONE (R219); then release the lock and go on to
stage `after`. -/
def State.dispatchStep (s : State) (j : Nat) (p : Pass) (t : SetId) (after : Stage) : State :=
  match p.phase with
  | .ready =>
    match s.lock t with
    | .free => (s.setLock t (.held j)).setPass j { p with rem := s.members t, phase := .iterating }
    | .held _ => s
  | .iterating =>
    if p.rem.isEmpty then (s.setLock t .free).setPass j { p with stage := after, phase := .ready }
    else
      let lid := pickListener s.draw.pick p.rem
      let s' := s.setPass j { p with phase := .awaitDone lid }
      { s' with listeners := Sparse.write s'.listeners j none }.emit (.dispatch j lid p.v p.pin)
  | _ => s

/-- The pass's next port, or its end where the queue is exhausted (R212, R218, R225). -/
def State.nextPort (s : State) (j : Nat) (p : Pass) : State :=
  match p.queue with
  | [] => s.endPass j
  | P :: queue => s.setPass j { p with port := P, queue := queue, stage := .readFlag, phase := .ready }

/-- One step of pass `j` in state `p` outside its frames (R212, R214 to R219). A stuck pass takes none (R52). -/
def routerStep (j : Nat) (p : Pass) (s : State) : State :=
  match p.stage, p.phase with
  | .scan, .ready => s.setPass j p.scan
  | .dispatchGlobal, _ => s.dispatchStep j p .global .dispatchPin
  | .dispatchPin, _ => s.dispatchStep j p (.pin p.pin) .next
  | .next, .ready => s.nextPort j p
  | _, _ => s

/-- The pass after the DONE of its outstanding dispatch: that listener leaves `rem` (R215, R219). -/
def Pass.afterDone (p : Pass) : Pass :=
  match p.phase with
  | .awaitDone lid => { p with rem := lidRemove p.rem lid, phase := .iterating }
  | _ => p

/-- The environment's DONE for pass `j` (R219). It comes only while the listener's context exists and is IDLE: a listener
whose command is unfinished has not returned (R177, R226; log entry 11). -/
def onDone (j : Nat) (s : State) : State :=
  match Sparse.read s.listeners j with
  | some none =>
    let s' := { s with listeners := Sparse.clear s.listeners j }
    match Sparse.read s'.passes j with
    | some p => s'.setPass j p.afterDone
    | none => s'
  | _ => s

end Sys2Proof.Machine
end

