-- ==== Sys2Proof/Machine/Turn.lean ====
section
/-! DEFINITION. What one event does: the fetch of the instruction an agent is executing, its run by `exec`, and the router's
other steps (00_scope.md rules R6, R9; log entry 1). -/

namespace Sys2Proof.Machine

/-- The next step of a BUSY context: its command's bits are decoded and the instruction runs. A word that is no command
ends with its error response (R77, R246). -/
def runJob (job : Job) (s : State) : Host.Outcome State Fault Refusal :=
  match decodeCode job.code, job.code with
  | .ok i, _ => exec i s
  | .reject _, .cmd _ => .next s.illegalCommand
  | .reject _, .frame _ => .fault .notAFrame

/-- The next step of an agent: a BUSY context's command, a pass's frame or another step of a pass. An IDLE context and a
pass that is not in flight take no step (R33, R36). -/
def takeTurn (a : Agent) (s : State) : Host.Outcome State Fault Refusal :=
  match a with
  | .ctx c =>
    match s.job c with
    | none => .next s
    | some job => runJob job s
  | .pass j =>
    match Sparse.read s.passes j with
    | none => .next s
    | some p =>
      match p.frame with
      | some i => exec i s
      | none => .next (routerStep j p s)

/-- The state in which the first coming event has been taken and, where it is a turn, its agent and draws are in place. -/
def State.load (s : State) (e : EnvEvent) (rest : List EnvEvent) : State :=
  match e with
  | .turn a d => { s with env := rest, cur := a, draw := d }
  | _ => { s with env := rest }

/-- What the event `e` does in a state that `State.load` gave. -/
def runEvent (e : EnvEvent) (s : State) : Host.Outcome State Fault Refusal :=
  match e with
  | .command c w => .next (onCommand c w s)
  | .turn a _ => takeTurn a s
  | .edge x => .next (onEdge x s)
  | .done j => .next (onDone j s)
  | .reset landed => .next (blockReset landed s)

/-- `s` with HOST[0] BUSY with the code `c`, before its first step, and HOST[0]'s turn coming next: where the next fetch
finds `c` (log entry 2). -/
def State.present (s : State) (c : Code) : State :=
  { s with
    hosts := Sparse.write s.hosts 0 { code := c, phase := .decode }
    env := .turn (.ctx (.host 0)) Draw.unused :: s.env }

end Sys2Proof.Machine
end

