-- ==== Sys2Proof/Machine/Step.lean ====
section
/-! DEFINITION. One step of the machine: the environment's next event. -/

namespace Sys2Proof.Machine

/-- One step: the first coming event of the environment happens. With none, no agent steps and nothing changes
(00_scope.md rule R9, 60_exceptions.md rule R262; log entries 1 and 14). -/
def step (s : State) : Host.Outcome State Fault Refusal :=
  match s.env with
  | [] => .next s
  | e :: rest => runEvent e (s.load e rest)

/-- `s` with the instruction of the table bits `w` (`nbits` of them) where the next step fetches: HOST[0] is BUSY with it,
in phase decode, and has the next turn (log entry 2). -/
def State.withFetchWord (s : State) (nbits w : Nat) : State := s.present (tableCode nbits w)

end Sys2Proof.Machine
end

