-- ==== Sys2Proof/Safety.lean ====
section
/-! DEFINITION. The terms the statements use: names for the instruction families, the state after a response, what counts as
a safe and as an ended run, and the invariants of the block. -/

namespace Sys2Proof.Machine

-- ---- families ----

/-- The concern index c (R21, R75). -/
def concernIndex (k : Concern) : Byte :=
  match k with
  | .iodir => 0
  | .ipol => 1
  | .gpinten => 2
  | .defval => 3
  | .intcon => 4
  | .gppu => 5
  | .olat => 6

/-- The getter of a concern: GET_DIR, GET_IPOL, GET_INTEN, GET_DEFVAL, GET_INTCON, GET_PU, and for OLAT the logical getter
GET (R75). -/
def getterOf (k : Concern) (n : Nat) : Instr :=
  match k with
  | .iodir => .getDir n
  | .ipol => .getIpol n
  | .gpinten => .getInten n
  | .defval => .getDefval n
  | .intcon => .getIntcon n
  | .gppu => .getPu n
  | .olat => .get n

/-- The setter of a concern: SET_DIR, SET_IPOL, SET_INTEN, SET_DEFVAL, SET_INTCON, SET_PU, SET_OUT (R75). -/
def setterOf (k : Concern) (n : Nat) (v : Bool) : Instr :=
  match k with
  | .iodir => .setDir n v
  | .ipol => .setIpol n v
  | .gpinten => .setInten n v
  | .defval => .setDefval n v
  | .intcon => .setIntcon n v
  | .gppu => .setPu n v
  | .olat => .setOut n v

/-- The commit of a concern and a port: COMMIT_IODIRA, COMMIT_IPOLA, COMMIT_GPINTENA, COMMIT_DEFVALA, COMMIT_INTCONA,
COMMIT_GPPUA, COMMIT_OLATA and the same seven for port B (R75). -/
def commitOf (k : Concern) (P : Port) : Instr :=
  match P, k with
  | .A, .iodir => .commitIodirA
  | .A, .ipol => .commitIpolA
  | .A, .gpinten => .commitGpintenA
  | .A, .defval => .commitDefvalA
  | .A, .intcon => .commitIntconA
  | .A, .gppu => .commitGppuA
  | .A, .olat => .commitOlatA
  | .B, .iodir => .commitIodirB
  | .B, .ipol => .commitIpolB
  | .B, .gpinten => .commitGpintenB
  | .B, .defval => .commitDefvalB
  | .B, .intcon => .commitIntconB
  | .B, .gppu => .commitGppuB
  | .B, .olat => .commitOlatB

/-- The construction command of a topology: CONSTRUCT_NONE, CONSTRUCT_TIED, CONSTRUCT_BOTH, CONSTRUCT_A_ONLY,
CONSTRUCT_B_ONLY (R190). -/
def constructOf (t : Topology) : Instr :=
  match t with
  | .none => .constructNone
  | .tied => .constructTied
  | .both => .constructBoth
  | .aOnly => .constructAOnly
  | .bOnly => .constructBOnly

/-- The commands whose field A is a pin identifier: the getters, the setters, the pin listener commands and GET_PIN_VIEW
(R73, R240). -/
def PinCommand (n : Nat) (i : Instr) : Prop :=
  (∃ k, i = getterOf k n) ∨ (∃ k v, i = setterOf k n v) ∨ (∃ lid, i = .addPinListener n lid) ∨
    (∃ lid, i = .removePinListener n lid) ∨ i = .getPinView n

/-- The construction commands, OP 0x60 to 0x64 (R76). -/
def IsConstruction (i : Instr) : Prop := ∃ t, i = constructOf t

/-- The two commands that write listener set `u`: an add or a remove of some identifier (R25, R171 to R174). -/
def ListenerCommandOn (u : SetId) (i : Instr) : Prop :=
  match u with
  | .global => ∃ lid, i = .addGlobalListener lid ∨ i = .removeGlobalListener lid
  | .pin q => ∃ lid, i = .addPinListener q.val lid ∨ i = .removePinListener q.val lid

/-- The bus frames, which are no host commands (R82). -/
def IsFrame (i : Instr) : Prop := (∃ a v, i = .busWrite a v) ∨ ∃ a, i = .busRead a

-- ---- contexts and responses ----

/-- Context `c` has the step, and it is a decode step (R246). -/
def Decoding (s : State) (c : Ctx) : Prop := s.cur = .ctx c ∧ s.phase = some .decode

/-- Context `c` has the step, past its decode step, in phase `ph` (R36). -/
def InPhase (s : State) (c : Ctx) (ph : Phase) : Prop := s.cur = .ctx c ∧ s.phase = some ph

/-- The state in which context `c` has the response word with status code `st` and result `r` and is IDLE (R36, R71), and
nothing else has changed. -/
def State.answered (s : State) (c : Ctx) (st : Byte) (r : BitVec 16) : State :=
  { s.endJob c with trace := s.trace ++ [.response c (st ++ (0 : Byte) ++ r)] }

/-- The state in which context `c` is BUSY with command `i` in phase `ph` (R36), and nothing else has changed. -/
def State.waiting (s : State) (c : Ctx) (i : Instr) (ph : Phase) : State := s.setJob c { code := encode i, phase := ph }

/-- The response words that the outputs `out` hold for context `c`, in order (R71). -/
def responsesTo (c : Ctx) (out : List Output) : List RspWord :=
  out.filterMap fun o =>
    match o with
    | .response c' w => if c' = c then some w else none
    | .frame _ _ => none
    | .bringUp _ => none
    | .dispatch _ _ _ _ => none

/-- The state in which agent `a` has begun the frame `f` (R47), and nothing else has changed. -/
def State.framed (s : State) (a : Agent) (f : FrameWord) : State :=
  { s with bus := .busy a f, csN := .low, trace := s.trace ++ [.frame a f] }

/-- The port and the bit of a pin identifier below 16, as R91 and R92 give them. -/
def portFor (n : Nat) : Port := if n < 8 then .A else .B

-- ---- runs ----

/-- No fault is recorded (R31: "A claim about the block takes `FAULTS` is empty as a premise"). -/
def Safe (s : State) : Prop := s.faults = ⟨false, false⟩

-- ---- commands run one step after another ----

/-- Context `c` takes the next step of its command `i` after what has happened so far (R9). -/
def runAs (c : Ctx) (i : Instr) (o : Host.Outcome State Fault Refusal) : Host.Outcome State Fault Refusal :=
  match o with
  | .next s => exec i { s with cur := .ctx c }
  | .fault r => .fault r
  | .refused r => .refused r

/-- Context `c` takes the next `n` steps of its command `i`, one after another (R9). -/
def runSteps (c : Ctx) (i : Instr) (n : Nat) (o : Host.Outcome State Fault Refusal) :
    Host.Outcome State Fault Refusal :=
  match n with
  | 0 => o
  | n + 1 => runSteps c i n (runAs c i o)

/-- Context `c`, were it to have the step, would take a decode step: it is IDLE or has just been given its command (R36). -/
def ReadyFor (s : State) (c : Ctx) : Prop := { s with cur := .ctx c }.phase = some .decode

/-- The state after a frame's end, the chip apart (R47). -/
def State.released (s : State) : State := { s with csN := .high, bus := .idle }

/-- Turn `d` of agent `a` comes next, and then `rest` (R9). -/
def TurnComes (s : State) (a : Agent) (d : Draw) (rest : List EnvEvent) : Prop := s.env = .turn a d :: rest

/-- The state in which agent `a` has the step, with the draws `d`, and `rest` is still to come. -/
def State.given (s : State) (a : Agent) (d : Draw) (rest : List EnvEvent) : State :=
  { s with env := rest, cur := a, draw := d }

-- ---- invariants ----

/-- Every listener set is a set, in canonical form and without the null identifier (R25). -/
def SetsWf (s : State) : Prop := ∀ t, lidSetWf (s.members t) = true

/-- The maps of the state are in their canonical form; the register space has 8-bit addresses (R40). -/
def MapsWf (s : State) : Prop :=
  Memory.wf s.chip = true ∧ Sparse.wf s.hosts = true ∧ Sparse.wf s.listeners = true ∧ Sparse.wf s.passes = true

/-- The next pass has a fresh identity: no pass in flight and no listener context has it or a later one (R211). -/
def NamesFresh (s : State) : Prop :=
  ∀ j, s.nextPass ≤ j → Sparse.read s.passes j = none ∧ Sparse.read s.listeners j = none

/-- Pass state `p` is inside its iteration over set `t`: from taking the lock to releasing it (R215, R216). -/
def Pass.iterates (p : Pass) (t : SetId) : Prop :=
  (p.phase = .iterating ∨ ∃ lid, p.phase = .awaitDone lid) ∧
    match t with
    | .global => p.stage = .dispatchGlobal
    | .pin q => p.stage = .dispatchPin ∧ p.pin = q

/-- A lock is HELD(j) exactly while pass j iterates over its set (R32, R215, R216, R225). -/
def LocksWf (s : State) : Prop :=
  ∀ t j, s.lock t = .held j ↔ ∃ p, Sparse.read s.passes j = some p ∧ p.iterates t

/-- A pass that awaits a DONE has the listener among those remaining, all of them members of the set it iterates over, and
the listener's context exists; a listener context of a pass in flight exists only then (R215, R219, R226). -/
def DispatchWf (s : State) : Prop :=
  ∀ j p, Sparse.read s.passes j = some p →
    ((Sparse.read s.listeners j).isSome ↔ ∃ lid, p.phase = .awaitDone lid) ∧
    (∀ lid, p.phase = .awaitDone lid → lid ∈ p.rem) ∧
    (∀ t, p.iterates t → ∀ lid ∈ p.rem, lid ∈ s.members t)

/-- Agent `a` is between the FrameBegin and the FrameEnd of a frame (R47). -/
def HasBegun (s : State) (a : Agent) : Prop :=
  match a with
  | .ctx c => ∃ job, s.job c = some job ∧ job.phase = .frameBegun
  | .pass j => ∃ p, Sparse.read s.passes j = some p ∧ p.phase = .frameBegun

/-- Chip-select is 0 exactly while BUS is BUSY, and BUS is BUSY exactly with the one agent between its FrameBegin and its
FrameEnd (R29, R30, R47). A pass's frame is a read frame (R222). -/
def BusWf (s : State) : Prop :=
  match s.bus with
  | .idle => s.csN ≠ .low ∧ ∀ a, ¬ HasBegun s a
  | .busy owner f =>
    s.csN = .low ∧ (∀ a, HasBegun s a ↔ a = owner) ∧ ∀ j, owner = .pass j → ∃ addr, f = readFrame addr

/-- Chip-select has been brought up wherever the block relies on it: it is not UNSPEC while LC is READY or FATAL, nor once a
context has its command's frame or a construction's final step before it (R29, R191). With `BusWf` it is then 1 whenever BUS
is IDLE. -/
def ChipSelectWf (s : State) : Prop :=
  (s.lc = .ready ∨ s.lc = .fatal → s.csN ≠ .unspec) ∧
  ∀ c job, s.job c = some job → job.phase = .frameReady ∨ job.phase = .final → s.csN ≠ .unspec

/-- While LC is UNCONSTRUCTED or CONSTRUCTING, SR and the 17 listener sets hold their reset values (R190's corner case). -/
def DefaultsWf (s : State) : Prop :=
  s.lc = .unconstructed ∨ s.lc = .constructing → s.sr = Shadow.reset ∧ ∀ u, s.members u = []

/-- A context past the decode step of its command. -/
def PastDecode (s : State) (c : Ctx) : Prop := ∃ job, s.job c = some job ∧ job.phase ≠ .decode

/-- The lifecycle and what is in flight agree (R27, R190, R211, R223, R246): every job is a 32-bit word; one past its decode
step is a legal command, and a construction exactly while LC is CONSTRUCTING, and then it is the only one; none is past its
decode step while LC is UNCONSTRUCTED; a pass is in flight only while LC is READY. -/
def LifecycleWf (s : State) : Prop :=
  (∀ c job, s.job c = some job → ∃ w, job.code = .cmd w) ∧
  (∀ c job, s.job c = some job → job.phase ≠ .decode →
    s.lc ≠ .unconstructed ∧ ∃ i, decodeCode job.code = .ok i ∧ (IsConstruction i ↔ s.lc = .constructing)) ∧
  (s.lc = .constructing → ∃ c, PastDecode s c ∧ ∀ c', PastDecode s c' → c' = c) ∧
  (s.lc ≠ .ready → s.passes = [])

/-- The next event is a reset of the block (R270). -/
def ResetComes (s : State) : Prop := ∃ landed rest, s.env = .reset landed :: rest

-- ---- stuck agents and the end of a run ----

/-- A context that is stuck after a bus conflict (R52). -/
def CtxStuck (s : State) (c : Ctx) : Prop := ∃ job, s.job c = some job ∧ job.phase = .stuck

/-- A pass that is stuck after a bus conflict (R52). -/
def PassStuck (s : State) (j : Nat) : Prop := ∃ p, Sparse.read s.passes j = some p ∧ p.phase = .stuck

/-- Pass `j` awaits the DONE of a listener whose own command awaits the lock that pass `j` holds (R177). -/
def WaitsForOwnPass (s : State) (j : Nat) : Prop :=
  ∃ p lid u job i, Sparse.read s.passes j = some p ∧ p.phase = .awaitDone lid ∧ p.iterates u ∧ s.lock u = .held j ∧
    s.job (.listener j) = some job ∧ job.phase = .waitLock ∧ decodeCode job.code = .ok i ∧ ListenerCommandOn u i

/-- An agent that is stuck: after a bus conflict (R52), or a listener context and its pass that wait for each other
(R177). -/
def AgentStuck (s : State) (a : Agent) : Prop :=
  match a with
  | .ctx c => CtxStuck s c ∨ ∃ j, c = .listener j ∧ WaitsForOwnPass s j
  | .pass j => PassStuck s j ∨ WaitsForOwnPass s j

/-- The environment has no further command for any context and no further edge (R293). -/
def NothingFurther (s : State) : Prop := ∀ e ∈ s.env, (∀ c w, e ≠ .command c w) ∧ ∀ x, e ≠ .edge x

/-- The end of a run (R293): every context IDLE with no further command, PASSES empty, BUS IDLE, and no further edge. -/
def RunEnded (s : State) : Prop :=
  (∀ c, s.job c = none) ∧ s.passes = [] ∧ s.bus = .idle ∧ NothingFurther s

/-- Nothing goes on but for agents that are stuck: every context is IDLE or stuck, every pass in PASSES is stuck, BUS is IDLE,
and nothing further comes. This is no end of a run: `RunStuck` says why. -/
def RunHalted (s : State) : Prop :=
  (∀ c, s.job c ≠ none → AgentStuck s (.ctx c)) ∧
    (∀ j p, Sparse.read s.passes j = some p → AgentStuck s (.pass j)) ∧ s.bus = .idle ∧ NothingFurther s

/-- A run in which nothing goes on, with an agent stuck. It has no end (95_test_vectors.md on R177: "the run has no end"): a
stuck context is not IDLE, and "A run is not over while a pass is in flight" (R225). -/
def RunStuck (s : State) : Prop := RunHalted s ∧ ∃ a, AgentStuck s a

/-- "A run that ends with `FAULTS` non-empty, or with an agent stuck, has ended badly" (R293): it has ended, as `RunEnded` says,
and FAULTS is not empty or an agent is stuck. (No agent is stuck where `RunEnded` holds: log entry 19.) -/
def RunEndedBadly (s : State) : Prop := RunEnded s ∧ (¬ Safe s ∨ ∃ a, AgentStuck s a)

end Sys2Proof.Machine
end

