-- ==== Sys2Proof/Certificates/Slice0/Obligations.lean ====
section
/-! DEFINITION. The statements about the model. A rule R<n> is a numbered rule of spec/. The step structure of a command is
the spec's (00_scope.md rule R9, in part its own decisions D25 and D34 of 92_eei_decisions.md). `s.answered`, `s.waiting`,
`s.framed`, `s.released`, `s.given` are defined in Sys2Proof/Safety.lean: each is `s` with the named change and nothing else,
so that an equation of states is a rule's effect and its frame at once. -/

open Sys2Proof Sys2Proof.Machine

-- ==== encoding ====

/-- The decoder reads command words and frames that the spec writes out: the examples of R80, R99, R110 to R125, R141,
R156, R173, R193 and R213. A sanity statement. -/
def Obligations.DecoderReadsTheSpecsWords : Prop :=
  decode 0x20030000 = .ok (.setDir 3 false) ∧ decode 0x220A0001 = .ok (.setInten 10 true) ∧
  decode 0x110C0000 = .ok (.getIpol 12) ∧ decode 0x16050000 = .ok (.get 5) ∧ decode 0x44090000 = .ok (.getPinView 9) ∧
  decode 0x30000000 = .ok .commitIodirA ∧ decode 0x3E000000 = .ok .commitOlatB ∧
  decode 0x400A0002 = .ok (.addPinListener 10 2) ∧ decode 0x43000002 = .ok (.removeGlobalListener 2) ∧
  decode 0x50120000 = .ok (.readReg 0x12) ∧ decode 0x61000000 = .ok .constructTied ∧
  decodeFrame 0x400A40 = .ok (.busWrite 0x0A 0x40) ∧ decodeFrame 0x410E00 = .ok (.busRead 0x0E)

/-- Decode and encode agree: what a well-formed instruction's bits decode to is that instruction (R76, R80, R82). -/
def Obligations.DecodeOfEncodeIsTheInstruction : Prop :=
  ∀ i : Instr, i.wellFormed = true → decodeCode (encode i) = .ok i

/-- Encode and decode agree the other way: bits that decode are the bits of the instruction they decode to, and it is
well-formed, so no two words mean the same instruction (R76, R79, R82). -/
def Obligations.EncodeOfDecodeIsTheWord : Prop :=
  ∀ (b : Code) (i : Instr), decodeCode b = .ok i → encode i = b ∧ i.wellFormed = true

/-- R77: the words that are commands are exactly the legal ones, and a word that is not legal, once presented, is answered
IllegalCommand (Fatal where LC is FATAL, by the precedence of R246), with no other effect. -/
def Obligations.ExactlyTheLegalWordsAreCommands : Prop :=
  (∀ w : CmdWord, legal w = true ↔ ∃ i, decode w = .ok i) ∧
  ∀ (w : CmdWord) (s : State) (c : Ctx) (d : Draw) (rest : List EnvEvent) (ph : Phase),
    legal w = false → TurnComes s (.ctx c) d rest → s.job c = some { code := .cmd w, phase := ph } →
      step s = .next ((s.given (.ctx c) d rest).answered c (if s.lc = .fatal then 0x04 else 0x05) 0)

-- ==== steps ====

/-- A step runs the decoded instruction: on the turn of a context, `exec` of the instruction that its command's bits decode
to; on the turn of a pass that is to send a frame, `exec` of that BUS_READ. Around `exec` a step only takes the event and puts
its agent and draws in place. -/
def Obligations.StepRunsTheDecodedInstruction : Prop :=
  ∀ (s : State) (d : Draw) (rest : List EnvEvent) (i : Instr),
    (∀ (c : Ctx) (job : Job), TurnComes s (.ctx c) d rest → s.job c = some job → decodeCode job.code = .ok i →
      step s = exec i (s.given (.ctx c) d rest)) ∧
    (∀ (j : Nat) (p : Pass), TurnComes s (.pass j) d rest → Sparse.read s.passes j = some p → p.frame = some i →
      step s = exec i (s.given (.pass j) d rest))

/-- R36: an IDLE context that is presented a word is BUSY with it, in phase decode; a BUSY context accepts no new command.
HOST[k] is there for k < NHOST (R6), a listener context between DISPATCH and DONE (R226). That an event for a context that
does not accept it is dropped is the model's choice (log entry 13). -/
def Obligations.OnlyIdleContextsAcceptCommands : Prop :=
  ∀ (s : State) (w : CmdWord) (rest : List EnvEvent) (c : Ctx), s.env = .command c w :: rest →
    (∀ k, c = .host k → k < Config.nhost → s.job c = none →
      step s = .next ({ s with env := rest }.setJob c { code := .cmd w, phase := .decode })) ∧
    (∀ j, c = .listener j → Sparse.read s.listeners j = some none →
      step s = .next ({ s with env := rest }.setJob c { code := .cmd w, phase := .decode })) ∧
    (∀ job, s.job c = some job → step s = .next { s with env := rest })

/-- In every state whose jobs are command words (`LifecycleWf`, which every step keeps), a step goes on to a next state: no
command, no event and no draw stops the machine (60_exceptions.md: errors are responses, faults are recorded). -/
def Obligations.EveryStepGoesOn : Prop :=
  ∀ s : State, LifecycleWf s → ∃ t, step s = .next t

-- ==== pins ====

/-- R90 to R93 and R98: which identifiers are pins, their port, bit index and mask; pins n and n + 8 have equal masks and
different ports; and the map to (port, bit index) is a total bijection, of which R97's `pinOf` is the inverse. -/
def Obligations.PinsArePortsAndBits : Prop :=
  (∀ n : Nat, fromIdentifier n = none ↔ 15 < n) ∧ (∀ p : Pin, fromIdentifier p.val = some p) ∧
  (∀ p : Pin, portOf p = (if p.val ≤ 7 then .A else .B) ∧ bitIndex p = p.val % 8 ∧
    ∀ i, (maskOf p).getLsbD i = decide (i = p.val % 8)) ∧
  (∀ p q : Pin, q.val = p.val + 8 → maskOf p = maskOf q ∧ portOf p ≠ portOf q) ∧
  (∀ (P : Port) (i : Fin 8), portOf (pinOf P i) = P ∧ bitIndex (pinOf P i) = i.val) ∧
  (∀ (P : Port) (i : Fin 8) (p : Pin), portOf p = P → bitIndex p = i.val → p = pinOf P i)

/-- R94 to R96: the port multiplexer, bit selection and bit insertion with its two laws (R96's third, that insertion is
idempotent, is an inference of the spec's own and is not restated). -/
def Obligations.BitSelectionAndInsertion : Prop :=
  ∀ (p : Pin) (b b' : Byte) (v : Bool),
    resolveByte p b b' = (if portOf p = .A then b else b') ∧ getBit p b = b.getLsbD (bitIndex p) ∧
    setBit p b v = (if v then b ||| maskOf p else b &&& ~~~(maskOf p)) ∧
    getBit p (setBit p b v) = v ∧
    (∀ j, j < 8 → j ≠ bitIndex p → (setBit p b v).getLsbD j = b.getLsbD j)

/-- R41: the address table, concern by concern and port by port, and the addresses of the flag, capture and live-GPIO
registers. The numbers are the spec's, from general knowledge (K1). -/
def Obligations.RegisterAddressTable : Prop :=
  concernAddr .iodir .A = 0x00 ∧ concernAddr .iodir .B = 0x01 ∧ concernAddr .ipol .A = 0x02 ∧ concernAddr .ipol .B = 0x03 ∧
  concernAddr .gpinten .A = 0x04 ∧ concernAddr .gpinten .B = 0x05 ∧ concernAddr .defval .A = 0x06 ∧
  concernAddr .defval .B = 0x07 ∧ concernAddr .intcon .A = 0x08 ∧ concernAddr .intcon .B = 0x09 ∧
  concernAddr .gppu .A = 0x0C ∧ concernAddr .gppu .B = 0x0D ∧ concernAddr .olat .A = 0x14 ∧ concernAddr .olat .B = 0x15 ∧
  addrIocon = 0x0A ∧ addrIntf .A = 0x0E ∧ addrIntf .B = 0x0F ∧ addrIntcap .A = 0x10 ∧ addrIntcap .B = 0x11 ∧
  addrGpio .A = 0x12 ∧ addrGpio .B = 0x13

-- ==== responses and errors ====

/-- R71, R72: the three fields of a response word, and the code of every status. -/
def Obligations.ResponseWordLayout : Prop :=
  (∀ (st : Status) (r : BitVec 16), (responseWord st r).extractLsb' 24 8 = statusCode st ∧
    (responseWord st r).extractLsb' 16 8 = 0 ∧ (responseWord st r).extractLsb' 0 16 = r) ∧
  statusCode .ok = 0x00 ∧ statusCode .invalidPin = 0x01 ∧ statusCode .invalidArgument = 0x02 ∧
  statusCode .ioFailure = 0x03 ∧ statusCode .fatal = 0x04 ∧ statusCode .illegalCommand = 0x05 ∧
  statusCode .notConstructed = 0x06 ∧ statusCode .alreadyConstructed = 0x07

/-- R244: while LC = FATAL every command completes with status Fatal in its decode step, with no other effect: as an
instruction, and as any word at all that a context is presented, legal or not. -/
def Obligations.FatalBlockAnswersFatal : Prop :=
  (∀ (i : Instr) (c : Ctx) (s : State), ¬ IsFrame i → Decoding s c → s.lc = .fatal →
    exec i s = .next (s.answered c 0x04 0)) ∧
  ∀ (w : CmdWord) (s : State) (c : Ctx) (d : Draw) (rest : List EnvEvent), TurnComes s (.ctx c) d rest →
    s.job c = some { code := .cmd w, phase := .decode } → s.lc = .fatal →
      step s = .next ((s.given (.ctx c) d rest).answered c 0x04 0)

/-- R246, R248: every command that is no construction, before LC is READY, is answered NotConstructed, and nothing else
changes. -/
def Obligations.UnconstructedBlockAnswersNotConstructed : Prop :=
  ∀ (i : Instr) (c : Ctx) (s : State), ¬ IsFrame i → ¬ IsConstruction i → Decoding s c →
    s.lc = .unconstructed ∨ s.lc = .constructing → exec i s = .next (s.answered c 0x06 0)

/-- R197: a construction command while LC is CONSTRUCTING or READY is answered AlreadyConstructed and changes nothing. -/
def Obligations.SecondConstructionIsRefused : Prop :=
  ∀ (t : Topology) (c : Ctx) (s : State), Decoding s c → s.lc = .constructing ∨ s.lc = .ready →
    exec (constructOf t) s = .next (s.answered c 0x07 0)

/-- R241: every pin command with n > 15 is answered InvalidPin in its decode step, before any state is read or written and
before any lock is awaited: it changes no state and sends no frame. -/
def Obligations.PinOutOfRangeIsInvalidPin : Prop :=
  ∀ (n : Nat) (i : Instr) (c : Ctx) (s : State), PinCommand n i → 15 < n → Decoding s c → s.lc = .ready →
    exec i s = .next (s.answered c 0x01 0)

-- ==== getters ====

/-- R110 to R116: each of the six configuration getters GET_DIR, GET_IPOL, GET_INTEN, GET_DEFVAL, GET_INTCON, GET_PU has the
encoding 0x10 | c, and in one atomic step responds its pin's shadow bit, or InvalidPin where n > 15; nothing else changes,
and no frame is sent. -/
def Obligations.ConfigGettersRespondTheShadowBit : Prop :=
  ∀ (k : Concern) (n : Nat), k ≠ .olat →
    encode (getterOf k n) = .cmd (cmdWord (0x10 ||| concernIndex k) (BitVec.ofNat 8 n) 0) ∧
    ∀ (c : Ctx) (s : State), Decoding s c → s.lc = .ready →
      exec (getterOf k n) s = .next
        (if n ≤ 15 then s.answered c 0x00 (if (s.sr.get k (portFor n)).getLsbD (n % 8) then 1 else 0)
         else s.answered c 0x01 0)

/-- R117, an output pin: GET responds the OLAT shadow bit in one step, and no frame is sent. The direction is the shadow's. -/
def Obligations.GetOnAnOutputPinReadsTheShadow : Prop :=
  ∀ (n : Nat) (c : Ctx) (s : State), n ≤ 15 → Decoding s c → s.lc = .ready →
    (s.sr.get .iodir (portFor n)).getLsbD (n % 8) = false →
      exec (.get n) s = .next (s.answered c 0x00 (if (s.sr.get .olat (portFor n)).getLsbD (n % 8) then 1 else 0))

/-- R117, an input pin: GET takes three steps. The first reads the direction; the second begins the frame 41 12 00 (port A)
or 41 13 00 (port B); the third ends it and responds the raw bit of the third response byte, or IOFailure. Nothing else
changes. -/
def Obligations.GetOnAnInputPinReadsTheChip : Prop :=
  ∀ (n : Nat) (c : Ctx) (s : State), n ≤ 15 →
    (Decoding s c → s.lc = .ready → (s.sr.get .iodir (portFor n)).getLsbD (n % 8) = true →
      exec (.get n) s = .next (s.waiting c (.get n) .frameReady)) ∧
    (InPhase s c .frameReady → s.bus = .idle →
      exec (.get n) s = .next ((s.framed (.ctx c)
        ((0x41 : Byte) ++ (if n ≤ 7 then 0x12 else 0x13 : Byte) ++ (0x00 : Byte))).waiting c (.get n) .frameBegun)) ∧
    (∀ a r0 r1 r2, InPhase s c .frameBegun → s.bus = .busy (.ctx c) (readFrame a) → s.draw.frame = .ok r0 r1 r2 →
      exec (.get n) s = .next (s.released.answered c 0x00 (if r2.getLsbD (n % 8) then 1 else 0))) ∧
    (∀ a landed, InPhase s c .frameBegun → s.bus = .busy (.ctx c) (readFrame a) → s.draw.frame = .fail landed →
      exec (.get n) s = .next (s.released.answered c 0x03 0))

/-- R99: GET_PIN_VIEW has the encoding 0x44, n, 0 and responds the handle n, or InvalidPin where n > 15; it writes no state
and sends no frame. -/
def Obligations.GetPinViewRespondsTheHandle : Prop :=
  ∀ n : Nat, encode (.getPinView n) = .cmd (cmdWord 0x44 (BitVec.ofNat 8 n) 0) ∧
    ∀ (c : Ctx) (s : State), Decoding s c → s.lc = .ready →
      exec (.getPinView n) s = .next (if n ≤ 15 then s.answered c 0x00 (BitVec.ofNat 16 n) else s.answered c 0x01 0)

-- ==== setters ====

/-- R118 to R125: each of the seven setters SET_DIR, SET_IPOL, SET_INTEN, SET_DEFVAL, SET_INTCON, SET_PU, SET_OUT has the
encoding 0x20 | c. Its first step reads the shadow byte of its pin's port (InvalidPin where n > 15, SR unchanged); its second
writes that byte with exactly the pin's bit replaced and responds 0. No other byte of SR changes, no frame is sent, nothing
else changes. -/
def Obligations.SettersWriteOneBit : Prop :=
  ∀ (k : Concern) (n : Nat) (v : Bool),
    encode (setterOf k n v) = .cmd (cmdWord (0x20 ||| concernIndex k) (BitVec.ofNat 8 n) (if v then 1 else 0)) ∧
    ∀ (c : Ctx) (s : State),
      (Decoding s c → s.lc = .ready →
        exec (setterOf k n v) s = .next
          (if n ≤ 15 then s.waiting c (setterOf k n v) (.setterRead (s.sr.get k (portFor n))) else s.answered c 0x01 0)) ∧
      (∀ b, n ≤ 15 → InPhase s c (.setterRead b) →
        ∃ t, exec (setterOf k n v) s = .next t ∧ t = { s.answered c 0x00 0 with sr := t.sr } ∧
          (∀ j, j < 8 → (t.sr.get k (portFor n)).getLsbD j = if j = n % 8 then v else b.getLsbD j) ∧
          ∀ k' P', ¬ (k' = k ∧ P' = portFor n) → t.sr.get k' P' = s.sr.get k' P')

/-- R118, R126: a setter that no other agent interleaves with, from its decode step to its response: one bit of SR is the
value given, every other bit of SR is as before, the response 0x00000000 is the only output, and no frame is sent. -/
def Obligations.SetterAloneChangesOneBit : Prop :=
  ∀ (k : Concern) (n : Nat) (v : Bool) (c : Ctx) (s : State), n ≤ 15 → Decoding s c → s.lc = .ready →
    ∃ t, runAs c (setterOf k n v) (runAs c (setterOf k n v) (.next s)) = .next t ∧
      (∀ k' P' j, j < 8 → (t.sr.get k' P').getLsbD j =
        if k' = k ∧ P' = portFor n ∧ j = n % 8 then v else (s.sr.get k' P').getLsbD j) ∧
      t.trace = s.trace ++ [.response c 0x00000000] ∧ t.job c = none ∧
      t.g = s.g ∧ t.pl = s.pl ∧ t.lc = s.lc ∧ t.topo = s.topo ∧ t.csN = s.csN ∧ t.bus = s.bus ∧ t.faults = s.faults ∧
      t.lkG = s.lkG ∧ t.lkPl = s.lkPl ∧ t.passes = s.passes ∧ t.chip = s.chip ∧
      ∀ c', c' ≠ c → t.job c' = s.job c'

/-- R127, which the spec derives from R118: two setters of different contexts on one shadow byte b0. Interleaved read1, read2,
write1, write2, the first update is lost; read1, read2, write2, write1 loses the second; one after the other, both take
effect. (The other interleavings are these with the two setters exchanged.) -/
def Obligations.ConcurrentSettersLoseAnUpdate : Prop :=
  ∀ (k : Concern) (p₁ p₂ : Pin) (v₁ v₂ : Bool) (c₁ c₂ : Ctx) (s : State),
    portOf p₁ = portOf p₂ → c₁ ≠ c₂ → ReadyFor s c₁ → ReadyFor s c₂ → s.lc = .ready →
    let i₁ := setterOf k p₁.val v₁
    let i₂ := setterOf k p₂.val v₂
    let b₀ := s.sr.get k (portOf p₁)
    (∃ t, runAs c₂ i₂ (runAs c₁ i₁ (runAs c₂ i₂ (runAs c₁ i₁ (.next s)))) = .next t ∧
      t.sr.get k (portOf p₁) = setBit p₂ b₀ v₂) ∧
    (∃ t, runAs c₁ i₁ (runAs c₂ i₂ (runAs c₂ i₂ (runAs c₁ i₁ (.next s)))) = .next t ∧
      t.sr.get k (portOf p₁) = setBit p₁ b₀ v₁) ∧
    (∃ t, runAs c₂ i₂ (runAs c₂ i₂ (runAs c₁ i₁ (runAs c₁ i₁ (.next s)))) = .next t ∧
      t.sr.get k (portOf p₁) = setBit p₂ (setBit p₁ b₀ v₁) v₂)

-- ==== commits and register reads ====

/-- R140 to R154: each of the fourteen commits has the encoding 0x30 | P << 3 | c. Its first step samples the shadow byte and
begins the frame 40, addr(c, P), byte; its second ends the frame and responds 0, or IOFailure. SR does not change. After OK
the chip register holds the byte sent; after a failure its old value or that byte, by the draw (R51). Nothing else changes. -/
def Obligations.CommitsSendTheShadowByte : Prop :=
  ∀ (k : Concern) (P : Port),
    encode (commitOf k P) = .cmd (cmdWord (0x30 ||| (portNumber P <<< 3) ||| concernIndex k) 0 0) ∧
    ∀ (c : Ctx) (s : State),
      (Decoding s c → s.lc = .ready → s.bus = .idle →
        exec (commitOf k P) s = .next ((s.framed (.ctx c)
          ((0x40 : Byte) ++ concernAddr k P ++ s.sr.get k P)).waiting c (commitOf k P) .frameBegun)) ∧
      (∀ a b r0 r1 r2, InPhase s c .frameBegun → s.bus = .busy (.ctx c) (writeFrame a b) →
        s.draw.frame = .ok r0 r1 r2 →
        ∃ t, exec (commitOf k P) s = .next t ∧ t = { s.released.answered c 0x00 0 with chip := t.chip } ∧
          ∀ x, Memory.read t.chip x = if x = a then some b else Memory.read s.chip x) ∧
      (∀ a b landed, InPhase s c .frameBegun → s.bus = .busy (.ctx c) (writeFrame a b) → s.draw.frame = .fail landed →
        ∃ t, exec (commitOf k P) s = .next t ∧ t = { s.released.answered c 0x03 0 with chip := t.chip } ∧
          ∀ x, Memory.read t.chip x = if x = a ∧ landed = true then some b else Memory.read s.chip x)

/-- R155, which the spec derives from R140 and R118: a setter's write that comes after a commit's sample of the same byte is
not in the frame. The commit of context c₁ is begun; context c₂, past its setter's read of the byte b, writes; the commit
ends with OK. The chip register then holds the byte sampled, and SR the setter's byte. -/
def Obligations.CommitSendsTheByteItSampled : Prop :=
  ∀ (k : Concern) (p : Pin) (v : Bool) (b : Byte) (c₁ c₂ : Ctx) (s : State) (r0 r1 r2 : Byte),
    c₁ ≠ c₂ → ReadyFor s c₁ → (∃ code, s.job c₂ = some { code := code, phase := .setterRead b }) → s.lc = .ready →
    s.bus = .idle → s.draw.frame = .ok r0 r1 r2 →
    let i₁ := commitOf k (portOf p)
    ∃ t, runAs c₁ i₁ (runAs c₂ (setterOf k p.val v) (runAs c₁ i₁ (.next s))) = .next t ∧
      Memory.read t.chip (concernAddr k (portOf p)) = some (s.sr.get k (portOf p)) ∧
      t.sr.get k (portOf p) = setBit p b v

/-- R156: READ_REG has the encoding 0x50, addr, 0. Its first step begins the frame 41, addr, 00; its second ends it and
responds the third response byte, or IOFailure. It neither reads nor writes SR; any address is accepted. -/
def Obligations.ReadRegRespondsTheByteRead : Prop :=
  ∀ addr : Byte, encode (.readReg addr) = .cmd (cmdWord 0x50 addr 0) ∧
    ∀ (c : Ctx) (s : State),
      (Decoding s c → s.lc = .ready → s.bus = .idle →
        exec (.readReg addr) s = .next ((s.framed (.ctx c)
          ((0x41 : Byte) ++ addr ++ (0x00 : Byte))).waiting c (.readReg addr) .frameBegun)) ∧
      (∀ a r0 r1 r2, InPhase s c .frameBegun → s.bus = .busy (.ctx c) (readFrame a) → s.draw.frame = .ok r0 r1 r2 →
        exec (.readReg addr) s = .next (s.released.answered c 0x00 (r2.setWidth 16))) ∧
      (∀ a landed, InPhase s c .frameBegun → s.bus = .busy (.ctx c) (readFrame a) → s.draw.frame = .fail landed →
        exec (.readReg addr) s = .next (s.released.answered c 0x03 0))

-- ==== bus frames ====

/-- R44 to R49: BUS_WRITE and BUS_READ as their owner's two steps, for an owner that is a context: FrameBegin puts the three
bytes on the bus with chip-select 0; FrameEnd releases chip-select and returns OK, the third response byte, or IOFailure. After
OK a write has set the addressed register. That a context's bare frame returns its outcome as a response word is the model's
choice (log entry 12); a pass's bare frame is the next two statements. -/
def Obligations.BareFramesBeginAndEnd : Prop :=
  ∀ (a v : Byte) (c : Ctx) (s : State),
    (Decoding s c → s.bus = .idle →
      exec (.busWrite a v) s = .next ((s.framed (.ctx c)
        ((0x40 : Byte) ++ a ++ v)).waiting c (.busWrite a v) .frameBegun) ∧
      exec (.busRead a) s = .next ((s.framed (.ctx c)
        ((0x41 : Byte) ++ a ++ (0x00 : Byte))).waiting c (.busRead a) .frameBegun)) ∧
    (∀ r0 r1 r2, InPhase s c .frameBegun → s.draw.frame = .ok r0 r1 r2 →
      (s.bus = .busy (.ctx c) (writeFrame a v) → ∃ t, exec (.busWrite a v) s = .next t ∧
        t = { s.released.answered c 0x00 0 with chip := t.chip } ∧
        ∀ x, Memory.read t.chip x = if x = a then some v else Memory.read s.chip x) ∧
      (s.bus = .busy (.ctx c) (readFrame a) →
        exec (.busRead a) s = .next (s.released.answered c 0x00 (r2.setWidth 16)))) ∧
    (∀ landed, InPhase s c .frameBegun → s.draw.frame = .fail landed →
      (s.bus = .busy (.ctx c) (writeFrame a v) → ∃ t, exec (.busWrite a v) s = .next t ∧
        t = { s.released.answered c 0x03 0 with chip := t.chip } ∧
        ∀ x, Memory.read t.chip x = if x = a ∧ landed = true then some v else Memory.read s.chip x) ∧
      (s.bus = .busy (.ctx c) (readFrame a) → exec (.busRead a) s = .next (s.released.answered c 0x03 0)))

/-- R212, R213: a pass at its flag read begins the frame 41 0E 00 (port A) or 41 0F 00 (port B), stores the third response
byte as f and goes on to its capture read, whatever f is; there it begins 41 10 00 or 41 11 00, stores cap and goes on to the
scan. -/
def Obligations.PassReadsFlagThenCapture : Prop :=
  ∀ (j : Nat) (p : Pass) (s : State), s.cur = .pass j → Sparse.read s.passes j = some p →
    (p.stage = .readFlag →
      p.frame = some (.busRead (if p.port = .A then 0x0E else 0x0F)) ∧
      ∀ a, p.frame = some (.busRead a) →
        (p.phase = .ready → s.bus = .idle →
          exec (.busRead a) s = .next ((s.framed (.pass j)
            ((0x41 : Byte) ++ a ++ (0x00 : Byte))).setPass j { p with phase := .frameBegun })) ∧
        (∀ r0 r1 r2, p.phase = .frameBegun → s.bus = .busy (.pass j) (readFrame a) → s.draw.frame = .ok r0 r1 r2 →
          exec (.busRead a) s = .next (s.released.setPass j { p with f := r2, stage := .readCap, phase := .ready }))) ∧
    (p.stage = .readCap →
      p.frame = some (.busRead (if p.port = .A then 0x10 else 0x11)) ∧
      ∀ a, p.frame = some (.busRead a) →
        (p.phase = .ready → s.bus = .idle →
          exec (.busRead a) s = .next ((s.framed (.pass j)
            ((0x41 : Byte) ++ a ++ (0x00 : Byte))).setPass j { p with phase := .frameBegun })) ∧
        (∀ r0 r1 r2, p.phase = .frameBegun → s.bus = .busy (.pass j) (readFrame a) → s.draw.frame = .ok r0 r1 r2 →
          exec (.busRead a) s = .next (s.released.setPass j { p with cap := r2, stage := .scan, phase := .ready })))

/-- R223: a router read that fails makes the block FATAL: ROUTER_IO is recorded, LC is FATAL, every pass ends, every lock a
pass held is FREE, chip-select is 1 and BUS IDLE; SR, the sets, TOPO, the host contexts and the outputs are as before. That
this is the same step as the failing FrameEnd is the model's reading (log entry 7), and so is that the listener contexts of
the passes that end are as before (log entry 15). -/
def Obligations.RouterReadFailureIsFatal : Prop :=
  ∀ (j : Nat) (p : Pass) (a a' : Byte) (landed : Bool) (s : State), s.cur = .pass j → Sparse.read s.passes j = some p →
    p.frame = some (.busRead a) → p.phase = .frameBegun → s.bus = .busy (.pass j) (readFrame a') →
    s.draw.frame = .fail landed →
    ∃ t, exec (.busRead a) s = .next t ∧
      t = { s.released with
        faults := ⟨s.faults.busConflict, true⟩, lc := .fatal, passes := [], lkG := t.lkG, lkPl := t.lkPl } ∧
      t.fatalOut = true ∧
      ∀ u, t.lock u = match s.lock u with
        | .free => .free
        | .held k => if (Sparse.read s.passes k).isSome then .free else .held k

/-- R52: a FrameBegin while another frame holds the bus adds BUS_CONFLICT to FAULTS and its agent is stuck, with no frame
sent and no response, and nothing else changed; a stuck agent takes no step. For the commits, READ_REG, GET on an input pin,
CONSTRUCT_TIED, bare frames, and a pass's reads. -/
def Obligations.FrameOnABusyBusIsAConflict : Prop :=
  (∀ (s : State) (a : Agent) (g : FrameWord), s.bus = .busy a g →
    let hit : State := { s with faults := ⟨true, s.faults.routerIo⟩ }
    (∀ c k P, Decoding s c → s.lc = .ready →
      exec (commitOf k P) s = .next (hit.waiting c (commitOf k P) .stuck)) ∧
    (∀ c addr, Decoding s c → s.lc = .ready → exec (.readReg addr) s = .next (hit.waiting c (.readReg addr) .stuck)) ∧
    (∀ c n, n ≤ 15 → InPhase s c .frameReady → exec (.get n) s = .next (hit.waiting c (.get n) .stuck)) ∧
    (∀ c, InPhase s c .frameReady → exec .constructTied s = .next (hit.waiting c .constructTied .stuck)) ∧
    (∀ c addr v, Decoding s c → exec (.busWrite addr v) s = .next (hit.waiting c (.busWrite addr v) .stuck)) ∧
    (∀ c addr, Decoding s c → exec (.busRead addr) s = .next (hit.waiting c (.busRead addr) .stuck)) ∧
    (∀ j p addr, s.cur = .pass j → Sparse.read s.passes j = some p → p.frame = some (.busRead addr) → p.phase = .ready →
      exec (.busRead addr) s = .next (hit.setPass j { p with phase := .stuck }))) ∧
  (∀ (s : State) (c : Ctx) (i : Instr), InPhase s c .stuck → exec i s = .next s) ∧
  ∀ (s : State) (j : Nat) (p : Pass) (addr : Byte), s.cur = .pass j → Sparse.read s.passes j = some p →
    p.phase = .stuck → exec (.busRead addr) s = .next s

-- ==== listeners ====

/-- R171, R172: ADD_GLOBAL_LISTENER and REMOVE_GLOBAL_LISTENER have the encodings 0x42 and 0x43 with A = 0. After the decode
step the command holds while LK_G is HELD, its turns changing nothing; with LK_G FREE, one atomic step answers
InvalidArgument where lid is null, already in G (add) or not in G (remove), with G unchanged, and else adds or removes
exactly lid and responds 0. Nothing else changes. -/
def Obligations.GlobalListenersJoinAndLeave : Prop :=
  ∀ (lid : Lid),
    encode (.addGlobalListener lid) = .cmd (cmdWord 0x42 0 lid) ∧
    encode (.removeGlobalListener lid) = .cmd (cmdWord 0x43 0 lid) ∧
    ∀ (c : Ctx) (s : State),
      (Decoding s c → s.lc = .ready →
        exec (.addGlobalListener lid) s = .next (s.waiting c (.addGlobalListener lid) .waitLock) ∧
        exec (.removeGlobalListener lid) s = .next (s.waiting c (.removeGlobalListener lid) .waitLock)) ∧
      (∀ j, InPhase s c .waitLock → s.lkG = .held j →
        exec (.addGlobalListener lid) s = .next s ∧ exec (.removeGlobalListener lid) s = .next s) ∧
      (InPhase s c .waitLock → s.lkG = .free →
        (lid = 0 ∨ lid ∈ s.g → exec (.addGlobalListener lid) s = .next (s.answered c 0x02 0)) ∧
        (lid ≠ 0 → lid ∉ s.g → ∃ t, exec (.addGlobalListener lid) s = .next t ∧
          t = { s.answered c 0x00 0 with g := t.g } ∧ ∀ x, x ∈ t.g ↔ x = lid ∨ x ∈ s.g) ∧
        (lid = 0 ∨ lid ∉ s.g → exec (.removeGlobalListener lid) s = .next (s.answered c 0x02 0)) ∧
        (lid ≠ 0 → lid ∈ s.g → ∃ t, exec (.removeGlobalListener lid) s = .next t ∧
          t = { s.answered c 0x00 0 with g := t.g } ∧ ∀ x, x ∈ t.g ↔ x ∈ s.g ∧ x ≠ lid))

/-- R173, R174: ADD_PIN_LISTENER and REMOVE_PIN_LISTENER have the encodings 0x40 and 0x41. The decode step answers InvalidPin
where n > 15, before the set is looked at; then the command holds while LK_PL[n] is HELD, and, with it FREE, one atomic
step does to PL[n], and to no other set, what the global commands do to G. No interrupt-enable bit is checked. -/
def Obligations.PinListenersJoinAndLeave : Prop :=
  ∀ (n : Nat) (lid : Lid),
    encode (.addPinListener n lid) = .cmd (cmdWord 0x40 (BitVec.ofNat 8 n) lid) ∧
    encode (.removePinListener n lid) = .cmd (cmdWord 0x41 (BitVec.ofNat 8 n) lid) ∧
    ∀ (c : Ctx) (s : State),
      (Decoding s c → s.lc = .ready →
        exec (.addPinListener n lid) s = .next
          (if n ≤ 15 then s.waiting c (.addPinListener n lid) .waitLock else s.answered c 0x01 0) ∧
        exec (.removePinListener n lid) s = .next
          (if n ≤ 15 then s.waiting c (.removePinListener n lid) .waitLock else s.answered c 0x01 0)) ∧
      (∀ (p : Pin) (j : Nat), p.val = n → InPhase s c .waitLock → s.lkPl[p] = .held j →
        exec (.addPinListener n lid) s = .next s ∧ exec (.removePinListener n lid) s = .next s) ∧
      (∀ p : Pin, p.val = n → InPhase s c .waitLock → s.lkPl[p] = .free →
        (lid = 0 ∨ lid ∈ s.pl[p] → exec (.addPinListener n lid) s = .next (s.answered c 0x02 0)) ∧
        (lid ≠ 0 → lid ∉ s.pl[p] → ∃ t, exec (.addPinListener n lid) s = .next t ∧
          t = { s.answered c 0x00 0 with pl := t.pl } ∧
          ∀ (q : Pin) (x : Lid), x ∈ t.pl[q] ↔ (q = p ∧ x = lid) ∨ x ∈ s.pl[q]) ∧
        (lid = 0 ∨ lid ∉ s.pl[p] → exec (.removePinListener n lid) s = .next (s.answered c 0x02 0)) ∧
        (lid ≠ 0 → lid ∈ s.pl[p] → ∃ t, exec (.removePinListener n lid) s = .next t ∧
          t = { s.answered c 0x00 0 with pl := t.pl } ∧
          ∀ (q : Pin) (x : Lid), x ∈ t.pl[q] ↔ x ∈ s.pl[q] ∧ ¬ (q = p ∧ x = lid)))

/-- R176: while the lock of its set is HELD by a pass, a listener command past its decode step waits: its turn changes
nothing. -/
def Obligations.ListenerCommandWaitsForTheLock : Prop :=
  ∀ (c : Ctx) (lid : Lid) (j : Nat) (s : State), InPhase s c .waitLock →
    (s.lkG = .held j → exec (.addGlobalListener lid) s = .next s ∧ exec (.removeGlobalListener lid) s = .next s) ∧
    (∀ p : Pin, s.lkPl[p] = .held j →
      exec (.addPinListener p.val lid) s = .next s ∧ exec (.removePinListener p.val lid) s = .next s)

/-- R177: a listener command on the set whose lock its own pass holds is never done, and neither is the pass: with pass j
awaiting DONE, its listener's context waiting for the lock of set u that pass j holds, no turn of either and no DONE changes
anything but the event taken. That DONE does not come while the listener's command is unfinished is the model's reading (log
entry 11). -/
def Obligations.SelfMutationIsStuck : Prop :=
  ∀ (s : State) (j : Nat) (p : Pass) (lid : Lid) (u : SetId) (code : Code) (i : Instr) (e : EnvEvent)
    (rest : List EnvEvent),
    Sparse.read s.passes j = some p → p.phase = .awaitDone lid → s.lock u = .held j →
    s.job (.listener j) = some { code := code, phase := .waitLock } → decodeCode code = .ok i →
    (∃ x, (u = .global ∧ (i = .addGlobalListener x ∨ i = .removeGlobalListener x)) ∨
      ∃ q : Pin, u = .pin q ∧ (i = .addPinListener q.val x ∨ i = .removePinListener q.val x)) →
    p.iterates u → s.env = e :: rest →
    ((∃ d, e = .turn (.ctx (.listener j)) d) ∨ (∃ d, e = .turn (.pass j) d) ∨ e = .done j) →
    ∃ t, step s = .next t ∧ t = { s with env := rest, cur := t.cur, draw := t.draw }

-- ==== construction ====

/-- R190, and R191 for the bring-up: what the five constructions share (their encodings 0x60 to 0x64 are in
DecodeOfEncodeIsTheInstruction's encoder). From UNCONSTRUCTED the decode step makes LC CONSTRUCTING (R190); the bring-up step,
on OK, makes CS_N 1 and, on FAIL, leaves CS_N (R191) and answers IOFailure with LC back to UNCONSTRUCTED (R190); the final
step binds the topology, makes LC READY and responds 0 (R190). SR and the sets are not written. -/
def Obligations.ConstructionsRunTheirSteps : Prop :=
  ∀ (t : Topology) (c : Ctx) (s : State),
    (Decoding s c → s.lc = .unconstructed →
      exec (constructOf t) s = .next (({ s with lc := .constructing } : State).waiting c (constructOf t) .bringUp)) ∧
    (InPhase s c .bringUp → s.draw.bringUpOk = true →
      exec (constructOf t) s = .next (({ s with csN := .high, trace := s.trace ++ [.bringUp c] } : State).waiting c
        (constructOf t) (if t = .tied then .frameReady else .final))) ∧
    (InPhase s c .bringUp → s.draw.bringUpOk = false →
      exec (constructOf t) s = .next
        (({ s with lc := .unconstructed, trace := s.trace ++ [.bringUp c] } : State).answered c 0x03 0)) ∧
    (InPhase s c .final →
      exec (constructOf t) s = .next (({ s with lc := .ready, topo := t } : State).answered c 0x00 0))

/-- R190, R193: after its bring-up, CONSTRUCT_TIED begins the one frame 40 0A 40; on OK it goes on to the final step, and the
chip's register 0A holds 40; on FAIL it answers IOFailure with LC back to UNCONSTRUCTED, and the chip's register 0A holds its
old value or 40, by the draw (R51). -/
def Obligations.TiedConstructionSendsTheIoconFrame : Prop :=
  ∀ (c : Ctx) (s : State),
    (InPhase s c .frameReady → s.bus = .idle →
      exec .constructTied s = .next ((s.framed (.ctx c) 0x400A40).waiting c .constructTied .frameBegun)) ∧
    (∀ r0 r1 r2, InPhase s c .frameBegun → s.bus = .busy (.ctx c) 0x400A40 → s.draw.frame = .ok r0 r1 r2 →
      ∃ t, exec .constructTied s = .next t ∧
        t = { s.released.waiting c .constructTied .final with chip := t.chip } ∧
        ∀ x, Memory.read t.chip x = if x = 0x0A then some 0x40 else Memory.read s.chip x) ∧
    (∀ landed, InPhase s c .frameBegun → s.bus = .busy (.ctx c) 0x400A40 → s.draw.frame = .fail landed →
      ∃ t, exec .constructTied s = .next t ∧
        t = { s.released.answered c 0x03 0 with lc := .unconstructed, chip := t.chip } ∧
        ∀ x, Memory.read t.chip x = if x = 0x0A ∧ landed = true then some 0x40 else Memory.read s.chip x)

/-- R198, which the spec derives from R190 to R196 and R21, for all five variants: from every state with LC UNCONSTRUCTED and
SR at its reset values (UnconstructedBlockHoldsTheDefaults), a construction whose steps nothing interleaves with, with a
bring-up that is OK and, for TIED, an IDLE bus and a frame that is OK, ends READY with its topology; the bring-up, TIED's one
IOCON frame and the response are its only outputs; SR and the sets are as before; and every pin then reads as an input, with
no pull-up, no inversion and no interrupt. -/
def Obligations.ConstructionFromResetLeavesTheDefaults : Prop :=
  ∀ (top : Topology) (c : Ctx) (s : State), ReadyFor s c → s.lc = .unconstructed → s.sr = Shadow.reset →
    s.draw.bringUpOk = true → (top = .tied → s.bus = .idle ∧ ∃ r0 r1 r2, s.draw.frame = .ok r0 r1 r2) →
    ∃ t, runSteps c (constructOf top) (if top = .tied then 5 else 3) (.next s) = .next t ∧
      t.lc = .ready ∧ t.topo = top ∧ t.csN = .high ∧ t.job c = none ∧
      t.trace = s.trace ++ .bringUp c ::
        (if top = .tied then [.frame (.ctx c) 0x400A40, .response c 0x00000000] else [.response c 0x00000000]) ∧
      t.sr = s.sr ∧ t.g = s.g ∧ t.pl = s.pl ∧ t.bus = s.bus ∧ t.faults = s.faults ∧ t.lkG = s.lkG ∧ t.lkPl = s.lkPl ∧
      t.passes = s.passes ∧ (∀ c', c' ≠ c → t.job c' = s.job c') ∧
      ∀ n, n ≤ 15 →
        exec (.getDir n) t = .next (t.answered c 0x00 1) ∧ exec (.getPu n) t = .next (t.answered c 0x00 0) ∧
        exec (.getIpol n) t = .next (t.answered c 0x00 0) ∧ exec (.getInten n) t = .next (t.answered c 0x00 0)

-- ==== the router ====

/-- R211: an edge is ignored and lost while LC is not READY, and on an input that the topology does not bind; else it adds a
fresh pass over port A, port B, or port A and then port B, and changes nothing else. Under SERIAL the environment delivers no
edge while a pass is in flight (R224), hence the premise; the fresh pass's unwritten fields are the model's choice (log
entry 10). -/
def Obligations.EdgesStartPassesOnBoundInputs : Prop :=
  ∀ (s : State) (x : IrqLine) (rest : List EnvEvent), s.env = .edge x :: rest →
    (s.lc ≠ .ready → step s = .next { s with env := rest }) ∧
    (s.topo = .none ∨ (x = .irqA ∧ s.topo ≠ .aOnly ∧ s.topo ≠ .both) ∨ (x = .irqB ∧ s.topo ≠ .bOnly ∧ s.topo ≠ .both) ∨
      (x = .irqT ∧ s.topo ≠ .tied) → step s = .next { s with env := rest }) ∧
    (∀ (P : Port) (queue : List Port), s.lc = .ready → s.passes = [] ∨ Config.edgeConcurrency = .concurrent →
      (x = .irqA ∧ (s.topo = .aOnly ∨ s.topo = .both) ∧ P = .A ∧ queue = []) ∨
      (x = .irqB ∧ (s.topo = .bOnly ∨ s.topo = .both) ∧ P = .B ∧ queue = []) ∨
      (x = .irqT ∧ s.topo = .tied ∧ P = .A ∧ queue = [.B]) →
      step s = .next { s with
        env := rest, nextPass := s.nextPass + 1, passes := Sparse.write s.passes s.nextPass (Pass.fresh P queue) })

/-- R214, R217: the scan is one atomic step. With f = 0 the pass goes on to its next port, with no dispatch and no lock taken.
Else, with i the lowest bit set in f, its pin is 8*P + i and its captured value cap[i], whatever the other bits of f and cap
are, and global dispatch comes next. -/
def Obligations.ScanTakesTheLowestFlag : Prop :=
  ∀ (s : State) (d : Draw) (rest : List EnvEvent) (j : Nat) (p : Pass), TurnComes s (.pass j) d rest →
    Sparse.read s.passes j = some p → p.stage = .scan → p.phase = .ready →
    (p.f = 0 → step s = .next ((s.given (.pass j) d rest).setPass j { p with stage := .next })) ∧
    (∀ i : Fin 8, p.f.getLsbD i.val = true → (∀ i' : Fin 8, i' < i → p.f.getLsbD i'.val = false) →
      ∃ q : Pin, q.val = (if p.port = .A then i.val else 8 + i.val) ∧
        step s = .next ((s.given (.pass j) d rest).setPass j
          { p with pin := q, v := p.cap.getLsbD i.val, stage := .dispatchGlobal }))

/-- R215, R216: at the head of its dispatch over G, and later over PL[pin], a pass waits while the set's lock is HELD; while
it is FREE one atomic step takes the lock and sets rem to the set's members, also where the set is empty. -/
def Obligations.DispatchTakesTheLock : Prop :=
  ∀ (s : State) (d : Draw) (rest : List EnvEvent) (j : Nat) (p : Pass) (u : SetId), TurnComes s (.pass j) d rest →
    Sparse.read s.passes j = some p → p.phase = .ready →
    (u = .global ∧ p.stage = .dispatchGlobal) ∨ (u = .pin p.pin ∧ p.stage = .dispatchPin) →
    (s.lock u = .free → step s = .next
      (((s.given (.pass j) d rest).setLock u (.held j)).setPass j { p with rem := s.members u, phase := .iterating })) ∧
    (∀ k, s.lock u = .held k → step s = .next (s.given (.pass j) d rest))

/-- R215, R219, R220: while identifiers remain, the pass emits DISPATCH(lid, v, pin) to one of them and awaits its DONE, and
the listener's context is there (R226); for every identifier that remains there is a draw that dispatches to it. -/
def Obligations.DispatchGoesToAnyRemainingListener : Prop :=
  ∀ (s : State) (rest : List EnvEvent) (j : Nat) (p : Pass), Sparse.read s.passes j = some p → p.phase = .iterating →
    p.rem ≠ [] → p.stage = .dispatchGlobal ∨ p.stage = .dispatchPin →
    let after (d : Draw) (lid : Lid) : State :=
      { (s.given (.pass j) d rest).setPass j { p with phase := .awaitDone lid } with
        listeners := Sparse.write s.listeners j none, trace := s.trace ++ [.dispatch j lid p.v p.pin] }
    (∀ d, TurnComes s (.pass j) d rest → ∃ lid ∈ p.rem, step s = .next (after d lid)) ∧
    (∀ lid ∈ p.rem, ∃ d, step { s with env := .turn (.pass j) d :: rest } = .next (after d lid))

/-- R215, R219: the DONE of pass j, its listener's context being IDLE, takes the listener dispatched to off those remaining,
and the iteration goes on; while that context is BUSY no DONE is taken (the model's reading, log entry 11). -/
def Obligations.DoneTakesTheListenerOff : Prop :=
  ∀ (s : State) (rest : List EnvEvent) (j : Nat) (p : Pass) (lid : Lid), s.env = .done j :: rest →
    Sparse.read s.passes j = some p → p.phase = .awaitDone lid →
    (Sparse.read s.listeners j = some none →
      ∃ rem, step s = .next { s with
        env := rest, listeners := Sparse.clear s.listeners j
        passes := Sparse.write s.passes j { p with rem := rem, phase := .iterating } } ∧
        ∀ x, x ∈ rem ↔ x ∈ p.rem ∧ x ≠ lid) ∧
    (∀ job, Sparse.read s.listeners j = some (some job) → step s = .next { s with env := rest })

/-- R215, R216: with no identifier remaining the pass releases the lock, in one step; after G comes PL[pin], after PL[pin] the
pass's next port. A pass awaiting DONE takes no step (R219). -/
def Obligations.DispatchReleasesTheLock : Prop :=
  ∀ (s : State) (d : Draw) (rest : List EnvEvent) (j : Nat) (p : Pass), TurnComes s (.pass j) d rest →
    Sparse.read s.passes j = some p →
    (p.phase = .iterating → p.rem = [] → p.stage = .dispatchGlobal →
      step s = .next (((s.given (.pass j) d rest).setLock .global .free).setPass j
        { p with stage := .dispatchPin, phase := .ready })) ∧
    (p.phase = .iterating → p.rem = [] → p.stage = .dispatchPin →
      step s = .next (((s.given (.pass j) d rest).setLock (.pin p.pin) .free).setPass j
        { p with stage := .next, phase := .ready })) ∧
    (∀ lid, p.phase = .awaitDone lid → p.stage = .dispatchGlobal ∨ p.stage = .dispatchPin →
      step s = .next (s.given (.pass j) d rest))

/-- R212, R218, R225: a pass that is done with a port goes to the flag read of its next port, if its queue has one, and else
ends: it is in PASSES no longer. -/
def Obligations.PassGoesToItsNextPortOrEnds : Prop :=
  ∀ (s : State) (d : Draw) (rest : List EnvEvent) (j : Nat) (p : Pass), TurnComes s (.pass j) d rest →
    Sparse.read s.passes j = some p → p.stage = .next → p.phase = .ready →
    (p.queue = [] → ∃ t, step s = .next t ∧ t = { s.given (.pass j) d rest with passes := t.passes } ∧
      ∀ k, Sparse.read t.passes k = if k = j then none else Sparse.read s.passes k) ∧
    (∀ P queue, p.queue = P :: queue →
      step s = .next ((s.given (.pass j) d rest).setPass j
        { p with port := P, queue := queue, stage := .readFlag, phase := .ready }))

/-- R222: no step of a pass changes SR, a listener set, the topology or a host context, and none writes the chip (its frames
are read frames, `BusWf`, which every step keeps); it sends no frame but a read of INTF or INTCAP. -/
def Obligations.RouterLeavesShadowSetsAndChip : Prop :=
  ∀ (s t : State) (d : Draw) (rest : List EnvEvent) (j : Nat), TurnComes s (.pass j) d rest → BusWf s → step s = .next t →
    t.sr = s.sr ∧ t.g = s.g ∧ t.pl = s.pl ∧ t.topo = s.topo ∧ t.hosts = s.hosts ∧ t.chip = s.chip ∧
    (t.trace = s.trace ∨ (∃ P, t.trace = s.trace ++ [.frame (.pass j) (readFrame (addrIntf P))]) ∨
      (∃ P, t.trace = s.trace ++ [.frame (.pass j) (readFrame (addrIntcap P))]) ∨
      ∃ lid v pin, t.trace = s.trace ++ [.dispatch j lid v pin])

-- ==== reset ====

/-- R270: a reset of the block, in whatever state it comes, gives every piece of state of R20 the value of R270's table; the
block does not reset the chip (R271), and where no frame is cut short its registers are as before. What it does to what R270
does not name is ResetDropsListenersAndCommands. -/
def Obligations.ResetGivesTheResetValues : Prop :=
  ∀ (s : State) (landed : Bool) (rest : List EnvEvent), s.env = .reset landed :: rest →
    ∃ t, step s = .next t ∧
      t.sr.get .iodir .A = 0xFF ∧ t.sr.get .iodir .B = 0xFF ∧ (∀ k P, k ≠ .iodir → t.sr.get k P = 0x00) ∧
      t.g = [] ∧ (∀ p : Pin, t.pl[p] = []) ∧ t.lc = .unconstructed ∧ t.topo = .none ∧ t.csN = .unspec ∧ t.bus = .idle ∧
      t.faults = ⟨false, false⟩ ∧ t.lkG = .free ∧ (∀ p : Pin, t.lkPl[p] = .free) ∧ t.passes = [] ∧
      (∀ k, t.job (.host k) = none) ∧ t.fatalOut = false ∧ (s.bus = .idle → t.chip = s.chip)

/-- The state right after reset meets every invariant stated below, records no fault, and is the end of a run. The last,
and that no name is taken, rest on the model's choice of an empty `env` and of `nextPass` (log entries 2 and 10). -/
def Obligations.ResetStateMeetsTheInvariants : Prop :=
  SetsWf State.reset ∧ MapsWf State.reset ∧ NamesFresh State.reset ∧ LocksWf State.reset ∧ DispatchWf State.reset ∧
  BusWf State.reset ∧ ChipSelectWf State.reset ∧ LifecycleWf State.reset ∧ DefaultsWf State.reset ∧ Safe State.reset ∧
  RunEnded State.reset

-- ==== invariants ====

/-- R25, R170: from every state whose 17 listener sets are sets without the null identifier, every step leads to such a
state. -/
def Obligations.ListenerSetsStaySets : Prop :=
  ∀ s t : State, SetsWf s → step s = .next t → SetsWf t

/-- The register space, the contexts and the passes keep their canonical form (R40: 8-bit addresses). -/
def Obligations.MapsStayCanonical : Prop :=
  ∀ s t : State, MapsWf s → step s = .next t → MapsWf t

/-- R32, R215, R216, R219, R225: every step keeps the agreement of locks, passes and dispatches: a lock is held exactly by the
pass that iterates over its set, what remains to be dispatched is in the set, and a listener context of a pass in flight exists
exactly while its DONE is awaited. So a pass holds at most one lock, and none after it has ended. -/
def Obligations.LocksFollowThePasses : Prop :=
  ∀ s t : State, NamesFresh s → LocksWf s → DispatchWf s → step s = .next t → NamesFresh t ∧ LocksWf t ∧ DispatchWf t

/-- R27, R29, R30, R47: every step keeps the agreement of chip-select, bus, lifecycle and what is in flight: chip-select is 0
exactly while one agent is between its FrameBegin and its FrameEnd, and it is not UNSPEC while LC is READY or FATAL, so that
then it is 1 whenever BUS is IDLE; a construction is past its decode step exactly while LC is CONSTRUCTING, and alone; a pass
is in flight only while LC is READY. -/
def Obligations.ChipSelectAndLifecycleStayCoherent : Prop :=
  ∀ s t : State, NamesFresh s → DispatchWf s → BusWf s → ChipSelectWf s → LifecycleWf s → step s = .next t →
    BusWf t ∧ ChipSelectWf t ∧ LifecycleWf t

/-- R31: no step but a reset removes a fault from FAULTS. -/
def Obligations.FaultsAreSticky : Prop :=
  ∀ s t : State, step s = .next t → ¬ ResetComes s →
    (s.faults.busConflict = true → t.faults.busConflict = true) ∧ (s.faults.routerIo = true → t.faults.routerIo = true)

/-- R27, R247: once LC is FATAL, no step but a reset leaves FATAL, and no pass starts; TOPO keeps its value. -/
def Obligations.OnlyResetLeavesFatal : Prop :=
  ∀ s t : State, LifecycleWf s → s.lc = .fatal → step s = .next t → ¬ ResetComes s →
    t.lc = .fatal ∧ t.fatalOut = true ∧ t.passes = [] ∧ t.topo = s.topo

/-- R23: only the seven setters, in their write step, and a reset change SR. -/
def Obligations.OnlySettersAndResetWriteTheShadow : Prop :=
  ∀ s t : State, step s = .next t → t.sr ≠ s.sr →
    ResetComes s ∨
    ∃ c d rest job k n v b, TurnComes s (.ctx c) d rest ∧ s.job c = some job ∧ decodeCode job.code = .ok (setterOf k n v) ∧
      n ≤ 15 ∧ job.phase = .setterRead b ∧ t.sr = s.sr.set k (portFor n) (t.sr.get k (portFor n))

/-- R25, R61, R176: a listener set changes only by a reset, or in the turn of a context whose command is an add or a remove on
that very set and is past its decode step, while the set's lock is FREE. -/
def Obligations.SetsChangeOnlyWhileUnlocked : Prop :=
  ∀ (s t : State) (u : SetId), step s = .next t → t.members u ≠ s.members u →
    ResetComes s ∨
    (s.lock u = .free ∧ ∃ c d rest job i, TurnComes s (.ctx c) d rest ∧ s.job c = some job ∧ job.phase = .waitLock ∧
      decodeCode job.code = .ok i ∧ ListenerCommandOn u i)

/-- R28: TOPO is written only by the final step of a construction command, and by a reset. -/
def Obligations.OnlyConstructionWritesTheTopology : Prop :=
  ∀ s t : State, step s = .next t → t.topo ≠ s.topo →
    ResetComes s ∨
    ∃ c d rest job top, TurnComes s (.ctx c) d rest ∧ s.job c = some job ∧ decodeCode job.code = .ok (constructOf top) ∧
      job.phase = .final ∧ t.topo = top

/-- R36, R71: a step's outputs go after the earlier ones; among them is at most one response to each context, and it comes only
in a step of that context, which was BUSY and is then IDLE. And from every state of coherent dispatches (`DispatchWf`, which
every step keeps) a step that takes a context from BUSY to IDLE, and is no reset, puts out exactly one response to it. So a
command that ends has exactly one response. (What a reset does to a command in progress: log entry 18.) -/
def Obligations.EachCommandHasOneResponse : Prop :=
  ∀ s t : State, step s = .next t →
    ∃ new, t.trace = s.trace ++ new ∧ ∀ c,
      (responsesTo c new = [] ∨ ∃ w, responsesTo c new = [w] ∧ (∃ d rest, TurnComes s (.ctx c) d rest) ∧
        s.job c ≠ none ∧ t.job c = none) ∧
      (DispatchWf s → ¬ ResetComes s → s.job c ≠ none → t.job c = none → ∃ w, responsesTo c new = [w])

/-- R190's corner case, R246: every step keeps SR and the 17 listener sets at their reset values while LC is UNCONSTRUCTED or
CONSTRUCTING, "because no command can change them while `LC` ≠ READY". (The spec derives it from R190 and R39.) -/
def Obligations.UnconstructedBlockHoldsTheDefaults : Prop :=
  ∀ s t : State, LifecycleWf s → DefaultsWf s → step s = .next t → DefaultsWf t

/-- The model's choices for a reset where R270 is silent: the listener contexts are gone (log entry 17); no response word goes
out for a command in progress, and what has been sent stays sent (log entries 18 and 9); the environment's later events are
still to come (log entry 1), pass names do not come twice (log entry 10), and a write frame cut short leaves its register with
its old value or the value sent, by the draw (log entry 8). -/
def Obligations.ResetDropsListenersAndCommands : Prop :=
  ∀ (s : State) (landed : Bool) (rest : List EnvEvent), s.env = .reset landed :: rest →
    ∃ t, step s = .next t ∧ t.listeners = [] ∧ (∀ c, t.job c = none) ∧ t.trace = s.trace ∧ t.env = rest ∧
      t.nextPass = s.nextPass ∧
      ∀ owner a v, s.bus = .busy owner (writeFrame a v) →
        ∀ x, Memory.read t.chip x = if x = a ∧ landed = true then some v else Memory.read s.chip x

/-- R52, R177: a stuck agent stays stuck. A context or a pass that a bus conflict has left stuck stays so, the context until a
reset and the pass until a reset or a fatal step; a pass and its listener's context that wait for each other stay so until a
reset or a fatal step, which releases the lock (R223). That a listener's stuck context outlives a fatal step that ends its pass
is the model's reading (log entry 15), and so is that a DONE for a listener whose command is stuck is dropped and leaves both
stuck (log entry 11). -/
def Obligations.StuckAgentsStayStuck : Prop :=
  ∀ s t : State, NamesFresh s → LocksWf s → DispatchWf s → LifecycleWf s → step s = .next t → ¬ ResetComes s →
    (∀ c, CtxStuck s c → CtxStuck t c) ∧
    (t.lc ≠ .fatal → ∀ a, AgentStuck s a → AgentStuck t a)

/-- R293: a run has ended just where nothing goes on (`RunHalted`) and no agent is stuck; it has ended badly just where it has
ended and FAULTS is not empty. A run in which nothing goes on with an agent stuck has no end (R225, and R177's vector) and has
not ended badly either; that no ended run has a stuck agent is the model's reading (log entry 19). Once nothing goes on, no step
but a reset changes that, and an ended, badly ended or stuck run stays so: a step takes the environment's next event and names
the agent of the turn, and changes nothing else of the block, but for a late DONE, which takes off the context of the listener
it names where that context is IDLE and its pass is gone (the model's reading, log entry 15). That a DONE for a BUSY listener
is dropped is log entry 11, and that an event naming no agent is dropped is log entry 13. -/
def Obligations.EndedRunsStayEnded : Prop :=
  ∀ s : State,
    (RunEnded s ↔ RunHalted s ∧ ∀ a, ¬ AgentStuck s a) ∧
    (RunEndedBadly s ↔ RunEnded s ∧ (s.faults.busConflict = true ∨ s.faults.routerIo = true)) ∧
    (RunStuck s → ¬ RunEnded s ∧ ¬ RunEndedBadly s) ∧
    ∀ t, DispatchWf s → LifecycleWf s → RunHalted s → step s = .next t → ¬ ResetComes s →
      RunHalted t ∧ (RunEnded s → RunEnded t) ∧ (RunEndedBadly s → RunEndedBadly t) ∧ (RunStuck s → RunStuck t) ∧
      (∀ c, t.job c = s.job c) ∧
      (t.listeners = s.listeners ∨ ∃ j, s.env = .done j :: t.env ∧ Sparse.read s.listeners j = some none ∧
        Sparse.read s.passes j = none ∧ t.listeners = Sparse.clear s.listeners j) ∧
      t = { s with env := t.env, cur := t.cur, draw := t.draw, listeners := t.listeners }
end

