-- ==== Sys2Proof/Laws/Decode.lean ====
section
/-! SUPPORT. The bits and the fields of a word built from fields, and of a frame. -/

namespace Sys2Proof

/-- The bits of a command word (R70). -/
theorem getLsbD_cmdWord (op a : Byte) (d : BitVec 16) (i : Nat) :
    (cmdWord op a d).getLsbD i =
      if i < 16 then d.getLsbD i else if i < 24 then a.getLsbD (i - 16) else op.getLsbD (i - 24) := by
  have h : (cmdWord op a d).getLsbD i = BitVec.getLsbD (op ++ a ++ d : BitVec (8 + 8 + 16)) i := rfl
  rw [h, BitVec.getLsbD_append, BitVec.getLsbD_append]
  split
  · rfl
  · by_cases h' : i < 24
    · simp [h', show i - 16 < 8 by omega]
    · simp [h', show ¬ i - 16 < 8 by omega, show i - 16 - 8 = i - 24 by omega]

@[simp] theorem opField_cmdWord (op a : Byte) (d : BitVec 16) : opField (cmdWord op a d) = op := by
  apply BitVec.eq_of_getLsbD_eq; intro i hi
  simp [opField, getLsbD_cmdWord, hi, show ¬ 24 + i < 16 by omega, show ¬ 24 + i < 24 by omega]

@[simp] theorem aField_cmdWord (op a : Byte) (d : BitVec 16) : aField (cmdWord op a d) = a := by
  apply BitVec.eq_of_getLsbD_eq; intro i hi
  simp [aField, getLsbD_cmdWord, hi, show 16 + i < 24 by omega]

@[simp] theorem dField_cmdWord (op a : Byte) (d : BitVec 16) : dField (cmdWord op a d) = d := by
  apply BitVec.eq_of_getLsbD_eq; intro i hi
  simp [dField, getLsbD_cmdWord, hi]

/-- A word is made of its three fields (R70). -/
theorem cmdWord_fields (w : CmdWord) : cmdWord (opField w) (aField w) (dField w) = w := by
  apply BitVec.eq_of_getLsbD_eq; intro i hi
  rw [getLsbD_cmdWord]
  simp only [opField, aField, dField, BitVec.getLsbD_extractLsb']
  split
  · simp_all
  · split
    · simp [show i - 16 < 8 by omega, show 16 + (i - 16) = i by omega]
    · simp [show i - 24 < 8 by omega, show 24 + (i - 24) = i by omega]

/-- The bits of a frame made of three bytes in order of transmission (R44, R45). -/
theorem getLsbD_bytes (x y z : Byte) (i : Nat) :
    (x ++ y ++ z : FrameWord).getLsbD i =
      if i < 8 then z.getLsbD i else if i < 16 then y.getLsbD (i - 8) else x.getLsbD (i - 16) := by
  have h : (x ++ y ++ z : FrameWord).getLsbD i = BitVec.getLsbD (x ++ y ++ z : BitVec (8 + 8 + 8)) i := rfl
  rw [h, BitVec.getLsbD_append, BitVec.getLsbD_append]
  split
  · rfl
  · by_cases h' : i < 16
    · simp [h', show i - 8 < 8 by omega]
    · simp [h', show ¬ i - 8 < 8 by omega, show i - 8 - 8 = i - 16 by omega]

theorem frameByte0_bytes (x y z : Byte) : frameByte0 (x ++ y ++ z) = x := by
  apply BitVec.eq_of_getLsbD_eq; intro i hi
  rw [frameByte0, BitVec.getLsbD_extractLsb', getLsbD_bytes]
  simp [hi, show ¬ 16 + i < 8 by omega, show ¬ 16 + i < 16 by omega]

theorem frameByte1_bytes (x y z : Byte) : frameByte1 (x ++ y ++ z) = y := by
  apply BitVec.eq_of_getLsbD_eq; intro i hi
  rw [frameByte1, BitVec.getLsbD_extractLsb', getLsbD_bytes]
  simp [hi, show 8 + i < 16 by omega]

theorem frameByte2_bytes (x y z : Byte) : frameByte2 (x ++ y ++ z) = z := by
  apply BitVec.eq_of_getLsbD_eq; intro i hi
  rw [frameByte2, BitVec.getLsbD_extractLsb', getLsbD_bytes]
  simp [hi]

/-- A frame is made of its three bytes (R82). -/
theorem frame_bytes (f : FrameWord) : (frameByte0 f ++ frameByte1 f ++ frameByte2 f : FrameWord) = f := by
  apply BitVec.eq_of_getLsbD_eq; intro i hi
  rw [getLsbD_bytes]
  simp only [frameByte0, frameByte1, frameByte2, BitVec.getLsbD_extractLsb']
  split
  · simp_all
  · split
    · simp [show i - 8 < 8 by omega, show 8 + (i - 8) = i by omega]
    · simp [show i - 16 < 8 by omega, show 16 + (i - 16) = i by omega]

@[simp] theorem frameByte0_writeFrame (a v : Byte) : frameByte0 (writeFrame a v) = writeOpcode :=
  frameByte0_bytes _ _ _
@[simp] theorem frameByte0_readFrame (a : Byte) : frameByte0 (readFrame a) = readOpcode :=
  frameByte0_bytes _ _ _

@[simp] theorem frameByte1_writeFrame (a v : Byte) : frameByte1 (writeFrame a v) = a :=
  frameByte1_bytes _ _ _
@[simp] theorem frameByte1_readFrame (a : Byte) : frameByte1 (readFrame a) = a :=
  frameByte1_bytes _ _ _

@[simp] theorem frameByte2_writeFrame (a v : Byte) : frameByte2 (writeFrame a v) = v :=
  frameByte2_bytes _ _ _
@[simp] theorem frameByte2_readFrame (a : Byte) : frameByte2 (readFrame a) = filler :=
  frameByte2_bytes _ _ _

/-- The value bit of a setter's word (R74). -/
@[simp] theorem vBit_vWord (op a : Byte) (v : Bool) : vBit (cmdWord op a (vWord v)) = v := by
  cases v <;> simp [vBit, vWord]

/-- The upper bits of a setter's D field are zero (R74). -/
@[simp] theorem vWord_high (v : Bool) : (vWord v).extractLsb' 1 15 = 0 := by cases v <;> decide

end Sys2Proof
end

