-- ==== Sys2Proof/Laws/Sparse.lean ====
section
/-! SUPPORT. The laws of the two containers: reading after writing, and that every operation keeps the canonical form. -/

namespace Sys2Proof.Machine

variable {α : Type}

@[simp] theorem Sparse.read_nil (k : Nat) : Sparse.read ([] : Sparse α) k = none := rfl

/-- A read at the key just written gives the value written. -/
@[simp] theorem Sparse.read_write_same (m : Sparse α) (k : Nat) (v : α) : Sparse.read (Sparse.write m k v) k = some v := by
  induction m with
  | nil => simp [Sparse.write, Sparse.read]
  | cons e m ih =>
    obtain ⟨k', v'⟩ := e
    simp only [Sparse.write]
    split
    · simp [Sparse.read]
    · split
      · simp [Sparse.read]
      · next h => simp [Sparse.read, Ne.symm h, ih]

/-- A write leaves every other key alone. -/
theorem Sparse.read_write_other (m : Sparse α) {k k' : Nat} (v : α) (h : k' ≠ k) :
    Sparse.read (Sparse.write m k v) k' = Sparse.read m k' := by
  induction m with
  | nil => simp [Sparse.write, Sparse.read, Ne.symm h]
  | cons e m ih =>
    obtain ⟨k₀, v₀⟩ := e
    simp only [Sparse.write]
    split
    · simp [Sparse.read, Ne.symm h]
    · split
      · next h₁ => subst h₁; simp [Sparse.read, Ne.symm h]
      · simp [Sparse.read, ih]

/-- Reading after a write, both cases. -/
theorem Sparse.read_write (m : Sparse α) (k k' : Nat) (v : α) :
    Sparse.read (Sparse.write m k v) k' = if k' = k then some v else Sparse.read m k' := by
  split
  · next h => subst h; simp
  · next h => exact Sparse.read_write_other m v h

/-- Reading after a removal, both cases. -/
theorem Sparse.read_clear (m : Sparse α) (k k' : Nat) :
    Sparse.read (Sparse.clear m k) k' = if k' = k then none else Sparse.read m k' := by
  induction m with
  | nil => simp [Sparse.clear, Sparse.read]
  | cons e m ih =>
    obtain ⟨k₀, v₀⟩ := e
    by_cases h₀ : k₀ = k
    · have : Sparse.clear ((k₀, v₀) :: m) k = Sparse.clear m k := by simp [Sparse.clear, h₀]
      rw [this, ih]
      split
      · rfl
      · next h => simp [Sparse.read, h₀, Ne.symm h]
    · have : Sparse.clear ((k₀, v₀) :: m) k = (k₀, v₀) :: Sparse.clear m k := by simp [Sparse.clear, h₀]
      rw [this]
      simp only [Sparse.read, ih]
      split
      · next h => subst h; simp [h₀]
      · rfl

/-- Removing a key that was just written is removing it. -/
@[simp] theorem Sparse.clear_write (m : Sparse α) (k : Nat) (v : α) :
    Sparse.clear (Sparse.write m k v) k = Sparse.clear m k := by
  induction m with
  | nil => simp [Sparse.write, Sparse.clear]
  | cons e m ih =>
    obtain ⟨k', v'⟩ := e
    simp only [Sparse.write]
    split
    · simp [Sparse.clear]
    · split
      · next h => simp [Sparse.clear, h]
      · simp only [Sparse.clear] at ih
        simp [Sparse.clear, ih, List.filter_cons]

/-- Writing a key twice is writing it once, with the later value. -/
@[simp] theorem Sparse.write_write (m : Sparse α) (k : Nat) (v v' : α) :
    Sparse.write (Sparse.write m k v) k v' = Sparse.write m k v' := by
  induction m with
  | nil => simp [Sparse.write]
  | cons e m ih =>
    obtain ⟨k', w⟩ := e
    by_cases h₁ : k < k'
    · simp [Sparse.write, h₁]
    · by_cases h₂ : k = k'
      · simp [Sparse.write, h₂]
      · simp [Sparse.write, h₁, h₂, ih]

/-- What stands in a map after a write stood there before, or is the entry written. -/
theorem Sparse.mem_write {m : Sparse α} {k : Nat} {v : α} {e : Nat × α} (h : e ∈ Sparse.write m k v) :
    e = (k, v) ∨ e ∈ m := by
  induction m with
  | nil => simpa [Sparse.write] using h
  | cons e' m ih =>
    obtain ⟨k', v'⟩ := e'
    simp only [Sparse.write] at h
    split at h
    · simpa using h
    · split at h
      · rcases List.mem_cons.1 h with h | h
        · exact .inl h
        · exact .inr (List.mem_cons_of_mem _ h)
      · rcases List.mem_cons.1 h with h | h
        · exact .inr (h ▸ List.mem_cons_self)
        · rcases ih h with h | h
          · exact .inl h
          · exact .inr (List.mem_cons_of_mem _ h)

/-- A write keeps the canonical form. -/
theorem Sparse.wf_write {m : Sparse α} (k : Nat) (v : α) (h : Sparse.wf m = true) : Sparse.wf (Sparse.write m k v) = true := by
  induction m with
  | nil => simp [Sparse.write, Sparse.wf]
  | cons e m ih =>
    obtain ⟨k', v'⟩ := e
    simp only [Sparse.wf, Bool.and_eq_true, List.all_eq_true, decide_eq_true_eq] at h
    obtain ⟨h₁, h₂⟩ := h
    simp only [Sparse.write]
    split
    · next hk =>
      simp only [Sparse.wf, Bool.and_eq_true, List.all_eq_true, decide_eq_true_eq]
      exact ⟨fun e he => by
        rcases List.mem_cons.1 he with rfl | he
        · exact hk
        · exact lt_trans hk (h₁ e he), h₁, h₂⟩
    · split
      · next hk =>
        subst hk
        simp only [Sparse.wf, Bool.and_eq_true, List.all_eq_true, decide_eq_true_eq]
        exact ⟨h₁, h₂⟩
      · next hk hk' =>
        simp only [Sparse.wf, Bool.and_eq_true, List.all_eq_true, decide_eq_true_eq]
        refine ⟨fun e he => ?_, ih h₂⟩
        rcases Sparse.mem_write he with rfl | he
        · exact lt_of_le_of_ne (not_lt.1 hk) (Ne.symm hk')
        · exact h₁ e he

/-- A removal keeps the canonical form. -/
theorem Sparse.wf_clear {m : Sparse α} (k : Nat) (h : Sparse.wf m = true) : Sparse.wf (Sparse.clear m k) = true := by
  induction m with
  | nil => rfl
  | cons e m ih =>
    obtain ⟨k', v'⟩ := e
    simp only [Sparse.wf, Bool.and_eq_true, List.all_eq_true, decide_eq_true_eq] at h
    have ih' := ih h.2
    by_cases hk : k' = k
    · have : Sparse.clear ((k', v') :: m) k = Sparse.clear m k := by simp [Sparse.clear, hk]
      rw [this]; exact ih'
    · have : Sparse.clear ((k', v') :: m) k = (k', v') :: Sparse.clear m k := by simp [Sparse.clear, hk]
      rw [this]
      simp only [Sparse.wf, Bool.and_eq_true, List.all_eq_true, decide_eq_true_eq]
      exact ⟨fun e he => h.1 e (List.mem_of_mem_filter he), ih'⟩

/-- The members after an addition. -/
@[simp] theorem mem_lidAdd (l : List Lid) (lid x : Lid) : x ∈ lidAdd l lid ↔ x = lid ∨ x ∈ l := by
  induction l with
  | nil => simp [lidAdd]
  | cons y l ih =>
    simp only [lidAdd]
    split
    · simp
    · split
      · next h => simp [h]
      · simp only [List.mem_cons, ih]
        exact or_left_comm

/-- The members after a removal. -/
@[simp] theorem mem_lidRemove (l : List Lid) (lid x : Lid) : x ∈ lidRemove l lid ↔ x ∈ l ∧ x ≠ lid := by
  simp [lidRemove]

/-- Adding a non-null identifier keeps the canonical form of a set. -/
theorem lidSetWf_add {l : List Lid} {lid : Lid} (h₀ : lid ≠ 0) (h : lidSetWf l = true) : lidSetWf (lidAdd l lid) = true := by
  induction l with
  | nil => simpa [lidAdd, lidSetWf] using h₀
  | cons y l ih =>
    simp only [lidSetWf, Bool.and_eq_true, List.all_eq_true, decide_eq_true_eq] at h
    obtain ⟨⟨hy, hall⟩, hl⟩ := h
    simp only [lidAdd]
    split
    · next hlt =>
      simp only [lidSetWf, Bool.and_eq_true, List.all_eq_true, decide_eq_true_eq]
      exact ⟨⟨by simpa using h₀, fun z hz => by
        rcases List.mem_cons.1 hz with rfl | hz
        · exact hlt
        · exact lt_trans hlt (hall z hz)⟩, ⟨hy, hall⟩, hl⟩
    · split
      · simp only [lidSetWf, Bool.and_eq_true, List.all_eq_true, decide_eq_true_eq]
        exact ⟨⟨hy, hall⟩, hl⟩
      · next hlt hne =>
        simp only [lidSetWf, Bool.and_eq_true, List.all_eq_true, decide_eq_true_eq]
        refine ⟨⟨hy, fun z hz => ?_⟩, ih hl⟩
        rcases (mem_lidAdd l lid z).1 hz with rfl | hz
        · exact lt_of_le_of_ne (not_lt.1 hlt) fun e => hne (BitVec.eq_of_toNat_eq e.symm)
        · exact hall z hz

/-- Removing an identifier keeps the canonical form of a set. -/
theorem lidSetWf_remove {l : List Lid} (lid : Lid) (h : lidSetWf l = true) : lidSetWf (lidRemove l lid) = true := by
  induction l with
  | nil => rfl
  | cons y l ih =>
    simp only [lidSetWf, Bool.and_eq_true, List.all_eq_true, decide_eq_true_eq] at h
    obtain ⟨⟨hy, hall⟩, hl⟩ := h
    by_cases hk : y = lid
    · have : lidRemove (y :: l) lid = lidRemove l lid := by simp [lidRemove, hk]
      rw [this]; exact ih hl
    · have : lidRemove (y :: l) lid = y :: lidRemove l lid := by simp [lidRemove, hk]
      rw [this]
      simp only [lidSetWf, Bool.and_eq_true, List.all_eq_true, decide_eq_true_eq]
      exact ⟨⟨hy, fun z hz => hall z (List.mem_of_mem_filter hz)⟩, ih hl⟩

end Sys2Proof.Machine
end

