-- ==== Sys2Proof/Laws/State.lean ====
section
/-! SUPPORT. One lemma for each field under each update of the state, so that no proof unfolds an update. -/

namespace Sys2Proof.Machine

variable (s : State)

-- ---- emit ----

@[simp] theorem State.emit_sr (o : Output) : (s.emit o).sr = s.sr := rfl
@[simp] theorem State.emit_g (o : Output) : (s.emit o).g = s.g := rfl
@[simp] theorem State.emit_pl (o : Output) : (s.emit o).pl = s.pl := rfl
@[simp] theorem State.emit_lc (o : Output) : (s.emit o).lc = s.lc := rfl
@[simp] theorem State.emit_topo (o : Output) : (s.emit o).topo = s.topo := rfl
@[simp] theorem State.emit_csN (o : Output) : (s.emit o).csN = s.csN := rfl
@[simp] theorem State.emit_bus (o : Output) : (s.emit o).bus = s.bus := rfl
@[simp] theorem State.emit_faults (o : Output) : (s.emit o).faults = s.faults := rfl
@[simp] theorem State.emit_lkG (o : Output) : (s.emit o).lkG = s.lkG := rfl
@[simp] theorem State.emit_lkPl (o : Output) : (s.emit o).lkPl = s.lkPl := rfl
@[simp] theorem State.emit_passes (o : Output) : (s.emit o).passes = s.passes := rfl
@[simp] theorem State.emit_hosts (o : Output) : (s.emit o).hosts = s.hosts := rfl
@[simp] theorem State.emit_listeners (o : Output) : (s.emit o).listeners = s.listeners := rfl
@[simp] theorem State.emit_nextPass (o : Output) : (s.emit o).nextPass = s.nextPass := rfl
@[simp] theorem State.emit_chip (o : Output) : (s.emit o).chip = s.chip := rfl
@[simp] theorem State.emit_env (o : Output) : (s.emit o).env = s.env := rfl
@[simp] theorem State.emit_cur (o : Output) : (s.emit o).cur = s.cur := rfl
@[simp] theorem State.emit_draw (o : Output) : (s.emit o).draw = s.draw := rfl
@[simp] theorem State.emit_trace (o : Output) : (s.emit o).trace = s.trace ++ [o] := rfl

-- ---- setJob ----

@[simp] theorem State.setJob_sr (c : Ctx) (job : Job) : (s.setJob c job).sr = s.sr := by cases c <;> rfl
@[simp] theorem State.setJob_g (c : Ctx) (job : Job) : (s.setJob c job).g = s.g := by cases c <;> rfl
@[simp] theorem State.setJob_pl (c : Ctx) (job : Job) : (s.setJob c job).pl = s.pl := by cases c <;> rfl
@[simp] theorem State.setJob_lc (c : Ctx) (job : Job) : (s.setJob c job).lc = s.lc := by cases c <;> rfl
@[simp] theorem State.setJob_topo (c : Ctx) (job : Job) : (s.setJob c job).topo = s.topo := by cases c <;> rfl
@[simp] theorem State.setJob_csN (c : Ctx) (job : Job) : (s.setJob c job).csN = s.csN := by cases c <;> rfl
@[simp] theorem State.setJob_bus (c : Ctx) (job : Job) : (s.setJob c job).bus = s.bus := by cases c <;> rfl
@[simp] theorem State.setJob_faults (c : Ctx) (job : Job) : (s.setJob c job).faults = s.faults := by cases c <;> rfl
@[simp] theorem State.setJob_lkG (c : Ctx) (job : Job) : (s.setJob c job).lkG = s.lkG := by cases c <;> rfl
@[simp] theorem State.setJob_lkPl (c : Ctx) (job : Job) : (s.setJob c job).lkPl = s.lkPl := by cases c <;> rfl
@[simp] theorem State.setJob_passes (c : Ctx) (job : Job) : (s.setJob c job).passes = s.passes := by cases c <;> rfl
@[simp] theorem State.setJob_nextPass (c : Ctx) (job : Job) : (s.setJob c job).nextPass = s.nextPass := by cases c <;> rfl
@[simp] theorem State.setJob_chip (c : Ctx) (job : Job) : (s.setJob c job).chip = s.chip := by cases c <;> rfl
@[simp] theorem State.setJob_env (c : Ctx) (job : Job) : (s.setJob c job).env = s.env := by cases c <;> rfl
@[simp] theorem State.setJob_cur (c : Ctx) (job : Job) : (s.setJob c job).cur = s.cur := by cases c <;> rfl
@[simp] theorem State.setJob_draw (c : Ctx) (job : Job) : (s.setJob c job).draw = s.draw := by cases c <;> rfl
@[simp] theorem State.setJob_trace (c : Ctx) (job : Job) : (s.setJob c job).trace = s.trace := by cases c <;> rfl

-- ---- endJob ----

@[simp] theorem State.endJob_sr (c : Ctx) : (s.endJob c).sr = s.sr := by
  unfold State.endJob
  repeat' split
  all_goals rfl
@[simp] theorem State.endJob_g (c : Ctx) : (s.endJob c).g = s.g := by
  unfold State.endJob
  repeat' split
  all_goals rfl
@[simp] theorem State.endJob_pl (c : Ctx) : (s.endJob c).pl = s.pl := by
  unfold State.endJob
  repeat' split
  all_goals rfl
@[simp] theorem State.endJob_lc (c : Ctx) : (s.endJob c).lc = s.lc := by
  unfold State.endJob
  repeat' split
  all_goals rfl
@[simp] theorem State.endJob_topo (c : Ctx) : (s.endJob c).topo = s.topo := by
  unfold State.endJob
  repeat' split
  all_goals rfl
@[simp] theorem State.endJob_csN (c : Ctx) : (s.endJob c).csN = s.csN := by
  unfold State.endJob
  repeat' split
  all_goals rfl
@[simp] theorem State.endJob_bus (c : Ctx) : (s.endJob c).bus = s.bus := by
  unfold State.endJob
  repeat' split
  all_goals rfl
@[simp] theorem State.endJob_faults (c : Ctx) : (s.endJob c).faults = s.faults := by
  unfold State.endJob
  repeat' split
  all_goals rfl
@[simp] theorem State.endJob_lkG (c : Ctx) : (s.endJob c).lkG = s.lkG := by
  unfold State.endJob
  repeat' split
  all_goals rfl
@[simp] theorem State.endJob_lkPl (c : Ctx) : (s.endJob c).lkPl = s.lkPl := by
  unfold State.endJob
  repeat' split
  all_goals rfl
@[simp] theorem State.endJob_passes (c : Ctx) : (s.endJob c).passes = s.passes := by
  unfold State.endJob
  repeat' split
  all_goals rfl
@[simp] theorem State.endJob_nextPass (c : Ctx) : (s.endJob c).nextPass = s.nextPass := by
  unfold State.endJob
  repeat' split
  all_goals rfl
@[simp] theorem State.endJob_chip (c : Ctx) : (s.endJob c).chip = s.chip := by
  unfold State.endJob
  repeat' split
  all_goals rfl
@[simp] theorem State.endJob_env (c : Ctx) : (s.endJob c).env = s.env := by
  unfold State.endJob
  repeat' split
  all_goals rfl
@[simp] theorem State.endJob_cur (c : Ctx) : (s.endJob c).cur = s.cur := by
  unfold State.endJob
  repeat' split
  all_goals rfl
@[simp] theorem State.endJob_draw (c : Ctx) : (s.endJob c).draw = s.draw := by
  unfold State.endJob
  repeat' split
  all_goals rfl
@[simp] theorem State.endJob_trace (c : Ctx) : (s.endJob c).trace = s.trace := by
  unfold State.endJob
  repeat' split
  all_goals rfl

-- ---- busConflict ----

@[simp] theorem State.busConflict_sr : (s.busConflict).sr = s.sr := rfl
@[simp] theorem State.busConflict_g : (s.busConflict).g = s.g := rfl
@[simp] theorem State.busConflict_pl : (s.busConflict).pl = s.pl := rfl
@[simp] theorem State.busConflict_lc : (s.busConflict).lc = s.lc := rfl
@[simp] theorem State.busConflict_topo : (s.busConflict).topo = s.topo := rfl
@[simp] theorem State.busConflict_csN : (s.busConflict).csN = s.csN := rfl
@[simp] theorem State.busConflict_bus : (s.busConflict).bus = s.bus := rfl
@[simp] theorem State.busConflict_faults : (s.busConflict).faults = { s.faults with busConflict := true } := rfl
@[simp] theorem State.busConflict_lkG : (s.busConflict).lkG = s.lkG := rfl
@[simp] theorem State.busConflict_lkPl : (s.busConflict).lkPl = s.lkPl := rfl
@[simp] theorem State.busConflict_passes : (s.busConflict).passes = s.passes := rfl
@[simp] theorem State.busConflict_hosts : (s.busConflict).hosts = s.hosts := rfl
@[simp] theorem State.busConflict_listeners : (s.busConflict).listeners = s.listeners := rfl
@[simp] theorem State.busConflict_nextPass : (s.busConflict).nextPass = s.nextPass := rfl
@[simp] theorem State.busConflict_chip : (s.busConflict).chip = s.chip := rfl
@[simp] theorem State.busConflict_env : (s.busConflict).env = s.env := rfl
@[simp] theorem State.busConflict_cur : (s.busConflict).cur = s.cur := rfl
@[simp] theorem State.busConflict_draw : (s.busConflict).draw = s.draw := rfl
@[simp] theorem State.busConflict_trace : (s.busConflict).trace = s.trace := rfl

-- ---- frameEnd ----

@[simp] theorem State.frameEnd_sr : (s.frameEnd).sr = s.sr := rfl
@[simp] theorem State.frameEnd_g : (s.frameEnd).g = s.g := rfl
@[simp] theorem State.frameEnd_pl : (s.frameEnd).pl = s.pl := rfl
@[simp] theorem State.frameEnd_lc : (s.frameEnd).lc = s.lc := rfl
@[simp] theorem State.frameEnd_topo : (s.frameEnd).topo = s.topo := rfl
@[simp] theorem State.frameEnd_csN : (s.frameEnd).csN = .high := rfl
@[simp] theorem State.frameEnd_bus : (s.frameEnd).bus = .idle := rfl
@[simp] theorem State.frameEnd_faults : (s.frameEnd).faults = s.faults := rfl
@[simp] theorem State.frameEnd_lkG : (s.frameEnd).lkG = s.lkG := rfl
@[simp] theorem State.frameEnd_lkPl : (s.frameEnd).lkPl = s.lkPl := rfl
@[simp] theorem State.frameEnd_passes : (s.frameEnd).passes = s.passes := rfl
@[simp] theorem State.frameEnd_hosts : (s.frameEnd).hosts = s.hosts := rfl
@[simp] theorem State.frameEnd_listeners : (s.frameEnd).listeners = s.listeners := rfl
@[simp] theorem State.frameEnd_nextPass : (s.frameEnd).nextPass = s.nextPass := rfl
@[simp] theorem State.frameEnd_chip : (s.frameEnd).chip = chipAfter s.bus s.draw.frame s.chip := rfl
@[simp] theorem State.frameEnd_env : (s.frameEnd).env = s.env := rfl
@[simp] theorem State.frameEnd_cur : (s.frameEnd).cur = s.cur := rfl
@[simp] theorem State.frameEnd_draw : (s.frameEnd).draw = s.draw := rfl
@[simp] theorem State.frameEnd_trace : (s.frameEnd).trace = s.trace := rfl

-- ---- setPass ----

@[simp] theorem State.setPass_sr (j : Nat) (p : Pass) : (s.setPass j p).sr = s.sr := rfl
@[simp] theorem State.setPass_g (j : Nat) (p : Pass) : (s.setPass j p).g = s.g := rfl
@[simp] theorem State.setPass_pl (j : Nat) (p : Pass) : (s.setPass j p).pl = s.pl := rfl
@[simp] theorem State.setPass_lc (j : Nat) (p : Pass) : (s.setPass j p).lc = s.lc := rfl
@[simp] theorem State.setPass_topo (j : Nat) (p : Pass) : (s.setPass j p).topo = s.topo := rfl
@[simp] theorem State.setPass_csN (j : Nat) (p : Pass) : (s.setPass j p).csN = s.csN := rfl
@[simp] theorem State.setPass_bus (j : Nat) (p : Pass) : (s.setPass j p).bus = s.bus := rfl
@[simp] theorem State.setPass_faults (j : Nat) (p : Pass) : (s.setPass j p).faults = s.faults := rfl
@[simp] theorem State.setPass_lkG (j : Nat) (p : Pass) : (s.setPass j p).lkG = s.lkG := rfl
@[simp] theorem State.setPass_lkPl (j : Nat) (p : Pass) : (s.setPass j p).lkPl = s.lkPl := rfl
@[simp] theorem State.setPass_passes (j : Nat) (p : Pass) : (s.setPass j p).passes = Sparse.write s.passes j p := rfl
@[simp] theorem State.setPass_hosts (j : Nat) (p : Pass) : (s.setPass j p).hosts = s.hosts := rfl
@[simp] theorem State.setPass_listeners (j : Nat) (p : Pass) : (s.setPass j p).listeners = s.listeners := rfl
@[simp] theorem State.setPass_nextPass (j : Nat) (p : Pass) : (s.setPass j p).nextPass = s.nextPass := rfl
@[simp] theorem State.setPass_chip (j : Nat) (p : Pass) : (s.setPass j p).chip = s.chip := rfl
@[simp] theorem State.setPass_env (j : Nat) (p : Pass) : (s.setPass j p).env = s.env := rfl
@[simp] theorem State.setPass_cur (j : Nat) (p : Pass) : (s.setPass j p).cur = s.cur := rfl
@[simp] theorem State.setPass_draw (j : Nat) (p : Pass) : (s.setPass j p).draw = s.draw := rfl
@[simp] theorem State.setPass_trace (j : Nat) (p : Pass) : (s.setPass j p).trace = s.trace := rfl

-- ---- endPass ----

@[simp] theorem State.endPass_sr (j : Nat) : (s.endPass j).sr = s.sr := rfl
@[simp] theorem State.endPass_g (j : Nat) : (s.endPass j).g = s.g := rfl
@[simp] theorem State.endPass_pl (j : Nat) : (s.endPass j).pl = s.pl := rfl
@[simp] theorem State.endPass_lc (j : Nat) : (s.endPass j).lc = s.lc := rfl
@[simp] theorem State.endPass_topo (j : Nat) : (s.endPass j).topo = s.topo := rfl
@[simp] theorem State.endPass_csN (j : Nat) : (s.endPass j).csN = s.csN := rfl
@[simp] theorem State.endPass_bus (j : Nat) : (s.endPass j).bus = s.bus := rfl
@[simp] theorem State.endPass_faults (j : Nat) : (s.endPass j).faults = s.faults := rfl
@[simp] theorem State.endPass_lkG (j : Nat) : (s.endPass j).lkG = s.lkG := rfl
@[simp] theorem State.endPass_lkPl (j : Nat) : (s.endPass j).lkPl = s.lkPl := rfl
@[simp] theorem State.endPass_passes (j : Nat) : (s.endPass j).passes = Sparse.clear s.passes j := rfl
@[simp] theorem State.endPass_hosts (j : Nat) : (s.endPass j).hosts = s.hosts := rfl
@[simp] theorem State.endPass_listeners (j : Nat) : (s.endPass j).listeners = s.listeners := rfl
@[simp] theorem State.endPass_nextPass (j : Nat) : (s.endPass j).nextPass = s.nextPass := rfl
@[simp] theorem State.endPass_chip (j : Nat) : (s.endPass j).chip = s.chip := rfl
@[simp] theorem State.endPass_env (j : Nat) : (s.endPass j).env = s.env := rfl
@[simp] theorem State.endPass_cur (j : Nat) : (s.endPass j).cur = s.cur := rfl
@[simp] theorem State.endPass_draw (j : Nat) : (s.endPass j).draw = s.draw := rfl
@[simp] theorem State.endPass_trace (j : Nat) : (s.endPass j).trace = s.trace := rfl

-- ---- routerFatal ----

@[simp] theorem State.routerFatal_sr : (s.routerFatal).sr = s.sr := rfl
@[simp] theorem State.routerFatal_g : (s.routerFatal).g = s.g := rfl
@[simp] theorem State.routerFatal_pl : (s.routerFatal).pl = s.pl := rfl
@[simp] theorem State.routerFatal_lc : (s.routerFatal).lc = .fatal := rfl
@[simp] theorem State.routerFatal_topo : (s.routerFatal).topo = s.topo := rfl
@[simp] theorem State.routerFatal_csN : (s.routerFatal).csN = s.csN := rfl
@[simp] theorem State.routerFatal_bus : (s.routerFatal).bus = s.bus := rfl
@[simp] theorem State.routerFatal_faults : (s.routerFatal).faults = { s.faults with routerIo := true } := rfl
@[simp] theorem State.routerFatal_lkG : (s.routerFatal).lkG = releaseLock s.passes s.lkG := rfl
@[simp] theorem State.routerFatal_lkPl : (s.routerFatal).lkPl = s.lkPl.map (releaseLock s.passes) := rfl
@[simp] theorem State.routerFatal_passes : (s.routerFatal).passes = [] := rfl
@[simp] theorem State.routerFatal_hosts : (s.routerFatal).hosts = s.hosts := rfl
@[simp] theorem State.routerFatal_listeners : (s.routerFatal).listeners = s.listeners := rfl
@[simp] theorem State.routerFatal_nextPass : (s.routerFatal).nextPass = s.nextPass := rfl
@[simp] theorem State.routerFatal_chip : (s.routerFatal).chip = s.chip := rfl
@[simp] theorem State.routerFatal_env : (s.routerFatal).env = s.env := rfl
@[simp] theorem State.routerFatal_cur : (s.routerFatal).cur = s.cur := rfl
@[simp] theorem State.routerFatal_draw : (s.routerFatal).draw = s.draw := rfl
@[simp] theorem State.routerFatal_trace : (s.routerFatal).trace = s.trace := rfl

-- ---- setMembers ----

@[simp] theorem State.setMembers_sr (t : SetId) (l : List Lid) : (s.setMembers t l).sr = s.sr := by cases t <;> rfl
@[simp] theorem State.setMembers_lc (t : SetId) (l : List Lid) : (s.setMembers t l).lc = s.lc := by cases t <;> rfl
@[simp] theorem State.setMembers_topo (t : SetId) (l : List Lid) : (s.setMembers t l).topo = s.topo := by cases t <;> rfl
@[simp] theorem State.setMembers_csN (t : SetId) (l : List Lid) : (s.setMembers t l).csN = s.csN := by cases t <;> rfl
@[simp] theorem State.setMembers_bus (t : SetId) (l : List Lid) : (s.setMembers t l).bus = s.bus := by cases t <;> rfl
@[simp] theorem State.setMembers_faults (t : SetId) (l : List Lid) : (s.setMembers t l).faults = s.faults := by cases t <;> rfl
@[simp] theorem State.setMembers_lkG (t : SetId) (l : List Lid) : (s.setMembers t l).lkG = s.lkG := by cases t <;> rfl
@[simp] theorem State.setMembers_lkPl (t : SetId) (l : List Lid) : (s.setMembers t l).lkPl = s.lkPl := by cases t <;> rfl
@[simp] theorem State.setMembers_passes (t : SetId) (l : List Lid) : (s.setMembers t l).passes = s.passes := by cases t <;> rfl
@[simp] theorem State.setMembers_hosts (t : SetId) (l : List Lid) : (s.setMembers t l).hosts = s.hosts := by cases t <;> rfl
@[simp] theorem State.setMembers_listeners (t : SetId) (l : List Lid) : (s.setMembers t l).listeners = s.listeners := by cases t <;> rfl
@[simp] theorem State.setMembers_nextPass (t : SetId) (l : List Lid) : (s.setMembers t l).nextPass = s.nextPass := by cases t <;> rfl
@[simp] theorem State.setMembers_chip (t : SetId) (l : List Lid) : (s.setMembers t l).chip = s.chip := by cases t <;> rfl
@[simp] theorem State.setMembers_env (t : SetId) (l : List Lid) : (s.setMembers t l).env = s.env := by cases t <;> rfl
@[simp] theorem State.setMembers_cur (t : SetId) (l : List Lid) : (s.setMembers t l).cur = s.cur := by cases t <;> rfl
@[simp] theorem State.setMembers_draw (t : SetId) (l : List Lid) : (s.setMembers t l).draw = s.draw := by cases t <;> rfl
@[simp] theorem State.setMembers_trace (t : SetId) (l : List Lid) : (s.setMembers t l).trace = s.trace := by cases t <;> rfl

-- ---- setLock ----

@[simp] theorem State.setLock_sr (t : SetId) (l : Lock) : (s.setLock t l).sr = s.sr := by cases t <;> rfl
@[simp] theorem State.setLock_g (t : SetId) (l : Lock) : (s.setLock t l).g = s.g := by cases t <;> rfl
@[simp] theorem State.setLock_pl (t : SetId) (l : Lock) : (s.setLock t l).pl = s.pl := by cases t <;> rfl
@[simp] theorem State.setLock_lc (t : SetId) (l : Lock) : (s.setLock t l).lc = s.lc := by cases t <;> rfl
@[simp] theorem State.setLock_topo (t : SetId) (l : Lock) : (s.setLock t l).topo = s.topo := by cases t <;> rfl
@[simp] theorem State.setLock_csN (t : SetId) (l : Lock) : (s.setLock t l).csN = s.csN := by cases t <;> rfl
@[simp] theorem State.setLock_bus (t : SetId) (l : Lock) : (s.setLock t l).bus = s.bus := by cases t <;> rfl
@[simp] theorem State.setLock_faults (t : SetId) (l : Lock) : (s.setLock t l).faults = s.faults := by cases t <;> rfl
@[simp] theorem State.setLock_passes (t : SetId) (l : Lock) : (s.setLock t l).passes = s.passes := by cases t <;> rfl
@[simp] theorem State.setLock_hosts (t : SetId) (l : Lock) : (s.setLock t l).hosts = s.hosts := by cases t <;> rfl
@[simp] theorem State.setLock_listeners (t : SetId) (l : Lock) : (s.setLock t l).listeners = s.listeners := by cases t <;> rfl
@[simp] theorem State.setLock_nextPass (t : SetId) (l : Lock) : (s.setLock t l).nextPass = s.nextPass := by cases t <;> rfl
@[simp] theorem State.setLock_chip (t : SetId) (l : Lock) : (s.setLock t l).chip = s.chip := by cases t <;> rfl
@[simp] theorem State.setLock_env (t : SetId) (l : Lock) : (s.setLock t l).env = s.env := by cases t <;> rfl
@[simp] theorem State.setLock_cur (t : SetId) (l : Lock) : (s.setLock t l).cur = s.cur := by cases t <;> rfl
@[simp] theorem State.setLock_draw (t : SetId) (l : Lock) : (s.setLock t l).draw = s.draw := by cases t <;> rfl
@[simp] theorem State.setLock_trace (t : SetId) (l : Lock) : (s.setLock t l).trace = s.trace := by cases t <;> rfl

-- ---- framed ----

@[simp] theorem State.framed_sr (a : Agent) (f : FrameWord) : (s.framed a f).sr = s.sr := rfl
@[simp] theorem State.framed_g (a : Agent) (f : FrameWord) : (s.framed a f).g = s.g := rfl
@[simp] theorem State.framed_pl (a : Agent) (f : FrameWord) : (s.framed a f).pl = s.pl := rfl
@[simp] theorem State.framed_lc (a : Agent) (f : FrameWord) : (s.framed a f).lc = s.lc := rfl
@[simp] theorem State.framed_topo (a : Agent) (f : FrameWord) : (s.framed a f).topo = s.topo := rfl
@[simp] theorem State.framed_csN (a : Agent) (f : FrameWord) : (s.framed a f).csN = .low := rfl
@[simp] theorem State.framed_bus (a : Agent) (f : FrameWord) : (s.framed a f).bus = .busy a f := rfl
@[simp] theorem State.framed_faults (a : Agent) (f : FrameWord) : (s.framed a f).faults = s.faults := rfl
@[simp] theorem State.framed_lkG (a : Agent) (f : FrameWord) : (s.framed a f).lkG = s.lkG := rfl
@[simp] theorem State.framed_lkPl (a : Agent) (f : FrameWord) : (s.framed a f).lkPl = s.lkPl := rfl
@[simp] theorem State.framed_passes (a : Agent) (f : FrameWord) : (s.framed a f).passes = s.passes := rfl
@[simp] theorem State.framed_hosts (a : Agent) (f : FrameWord) : (s.framed a f).hosts = s.hosts := rfl
@[simp] theorem State.framed_listeners (a : Agent) (f : FrameWord) : (s.framed a f).listeners = s.listeners := rfl
@[simp] theorem State.framed_nextPass (a : Agent) (f : FrameWord) : (s.framed a f).nextPass = s.nextPass := rfl
@[simp] theorem State.framed_chip (a : Agent) (f : FrameWord) : (s.framed a f).chip = s.chip := rfl
@[simp] theorem State.framed_env (a : Agent) (f : FrameWord) : (s.framed a f).env = s.env := rfl
@[simp] theorem State.framed_cur (a : Agent) (f : FrameWord) : (s.framed a f).cur = s.cur := rfl
@[simp] theorem State.framed_draw (a : Agent) (f : FrameWord) : (s.framed a f).draw = s.draw := rfl
@[simp] theorem State.framed_trace (a : Agent) (f : FrameWord) : (s.framed a f).trace = s.trace ++ [.frame a f] := rfl

-- ---- waiting ----

@[simp] theorem State.waiting_sr (c : Ctx) (i : Instr) (ph : Phase) : (s.waiting c i ph).sr = s.sr := by cases c <;> rfl
@[simp] theorem State.waiting_g (c : Ctx) (i : Instr) (ph : Phase) : (s.waiting c i ph).g = s.g := by cases c <;> rfl
@[simp] theorem State.waiting_pl (c : Ctx) (i : Instr) (ph : Phase) : (s.waiting c i ph).pl = s.pl := by cases c <;> rfl
@[simp] theorem State.waiting_lc (c : Ctx) (i : Instr) (ph : Phase) : (s.waiting c i ph).lc = s.lc := by cases c <;> rfl
@[simp] theorem State.waiting_topo (c : Ctx) (i : Instr) (ph : Phase) : (s.waiting c i ph).topo = s.topo := by cases c <;> rfl
@[simp] theorem State.waiting_csN (c : Ctx) (i : Instr) (ph : Phase) : (s.waiting c i ph).csN = s.csN := by cases c <;> rfl
@[simp] theorem State.waiting_bus (c : Ctx) (i : Instr) (ph : Phase) : (s.waiting c i ph).bus = s.bus := by cases c <;> rfl
@[simp] theorem State.waiting_faults (c : Ctx) (i : Instr) (ph : Phase) : (s.waiting c i ph).faults = s.faults := by cases c <;> rfl
@[simp] theorem State.waiting_lkG (c : Ctx) (i : Instr) (ph : Phase) : (s.waiting c i ph).lkG = s.lkG := by cases c <;> rfl
@[simp] theorem State.waiting_lkPl (c : Ctx) (i : Instr) (ph : Phase) : (s.waiting c i ph).lkPl = s.lkPl := by cases c <;> rfl
@[simp] theorem State.waiting_passes (c : Ctx) (i : Instr) (ph : Phase) : (s.waiting c i ph).passes = s.passes := by cases c <;> rfl
@[simp] theorem State.waiting_nextPass (c : Ctx) (i : Instr) (ph : Phase) : (s.waiting c i ph).nextPass = s.nextPass := by cases c <;> rfl
@[simp] theorem State.waiting_chip (c : Ctx) (i : Instr) (ph : Phase) : (s.waiting c i ph).chip = s.chip := by cases c <;> rfl
@[simp] theorem State.waiting_env (c : Ctx) (i : Instr) (ph : Phase) : (s.waiting c i ph).env = s.env := by cases c <;> rfl
@[simp] theorem State.waiting_cur (c : Ctx) (i : Instr) (ph : Phase) : (s.waiting c i ph).cur = s.cur := by cases c <;> rfl
@[simp] theorem State.waiting_draw (c : Ctx) (i : Instr) (ph : Phase) : (s.waiting c i ph).draw = s.draw := by cases c <;> rfl
@[simp] theorem State.waiting_trace (c : Ctx) (i : Instr) (ph : Phase) : (s.waiting c i ph).trace = s.trace := by cases c <;> rfl

-- ---- answered ----

@[simp] theorem State.answered_sr (c : Ctx) (st : Byte) (r : BitVec 16) : (s.answered c st r).sr = s.sr := by
  simp [State.answered]
@[simp] theorem State.answered_g (c : Ctx) (st : Byte) (r : BitVec 16) : (s.answered c st r).g = s.g := by
  simp [State.answered]
@[simp] theorem State.answered_pl (c : Ctx) (st : Byte) (r : BitVec 16) : (s.answered c st r).pl = s.pl := by
  simp [State.answered]
@[simp] theorem State.answered_lc (c : Ctx) (st : Byte) (r : BitVec 16) : (s.answered c st r).lc = s.lc := by
  simp [State.answered]
@[simp] theorem State.answered_topo (c : Ctx) (st : Byte) (r : BitVec 16) : (s.answered c st r).topo = s.topo := by
  simp [State.answered]
@[simp] theorem State.answered_csN (c : Ctx) (st : Byte) (r : BitVec 16) : (s.answered c st r).csN = s.csN := by
  simp [State.answered]
@[simp] theorem State.answered_bus (c : Ctx) (st : Byte) (r : BitVec 16) : (s.answered c st r).bus = s.bus := by
  simp [State.answered]
@[simp] theorem State.answered_faults (c : Ctx) (st : Byte) (r : BitVec 16) : (s.answered c st r).faults = s.faults := by
  simp [State.answered]
@[simp] theorem State.answered_lkG (c : Ctx) (st : Byte) (r : BitVec 16) : (s.answered c st r).lkG = s.lkG := by
  simp [State.answered]
@[simp] theorem State.answered_lkPl (c : Ctx) (st : Byte) (r : BitVec 16) : (s.answered c st r).lkPl = s.lkPl := by
  simp [State.answered]
@[simp] theorem State.answered_passes (c : Ctx) (st : Byte) (r : BitVec 16) : (s.answered c st r).passes = s.passes := by
  simp [State.answered]
@[simp] theorem State.answered_nextPass (c : Ctx) (st : Byte) (r : BitVec 16) : (s.answered c st r).nextPass = s.nextPass := by
  simp [State.answered]
@[simp] theorem State.answered_chip (c : Ctx) (st : Byte) (r : BitVec 16) : (s.answered c st r).chip = s.chip := by
  simp [State.answered]
@[simp] theorem State.answered_env (c : Ctx) (st : Byte) (r : BitVec 16) : (s.answered c st r).env = s.env := by
  simp [State.answered]
@[simp] theorem State.answered_cur (c : Ctx) (st : Byte) (r : BitVec 16) : (s.answered c st r).cur = s.cur := by
  simp [State.answered]
@[simp] theorem State.answered_draw (c : Ctx) (st : Byte) (r : BitVec 16) : (s.answered c st r).draw = s.draw := by
  simp [State.answered]
@[simp] theorem State.answered_trace (c : Ctx) (st : Byte) (r : BitVec 16) :
    (s.answered c st r).trace = s.trace ++ [.response c (st ++ (0 : Byte) ++ r)] := by simp [State.answered]

-- ---- an answer after a change of another field is the change after the answer ----

theorem State.answered_with_sr (c : Ctx) (st : Byte) (r : BitVec 16) (x : Shadow) :
    ({ s with sr := x } : State).answered c st r = { s.answered c st r with sr := x } := by
  cases c with
  | host k => rfl
  | listener j => simp only [State.answered, State.endJob]; cases h : Sparse.read s.listeners j <;> rfl
theorem State.answered_with_g (c : Ctx) (st : Byte) (r : BitVec 16) (x : List Lid) :
    ({ s with g := x } : State).answered c st r = { s.answered c st r with g := x } := by
  cases c with
  | host k => rfl
  | listener j => simp only [State.answered, State.endJob]; cases h : Sparse.read s.listeners j <;> rfl
theorem State.answered_with_pl (c : Ctx) (st : Byte) (r : BitVec 16) (x : Vector (List Lid) 16) :
    ({ s with pl := x } : State).answered c st r = { s.answered c st r with pl := x } := by
  cases c with
  | host k => rfl
  | listener j => simp only [State.answered, State.endJob]; cases h : Sparse.read s.listeners j <;> rfl
theorem State.answered_with_lc (c : Ctx) (st : Byte) (r : BitVec 16) (x : Lifecycle) :
    ({ s with lc := x } : State).answered c st r = { s.answered c st r with lc := x } := by
  cases c with
  | host k => rfl
  | listener j => simp only [State.answered, State.endJob]; cases h : Sparse.read s.listeners j <;> rfl
theorem State.answered_with_chip (c : Ctx) (st : Byte) (r : BitVec 16) (x : Memory) :
    ({ s with chip := x } : State).answered c st r = { s.answered c st r with chip := x } := by
  cases c with
  | host k => rfl
  | listener j => simp only [State.answered, State.endJob]; cases h : Sparse.read s.listeners j <;> rfl

-- ---- the fields that setJob, setMembers and setLock change ----

@[simp] theorem State.setJob_host_hosts (k : Nat) (job : Job) :
    (s.setJob (.host k) job).hosts = Sparse.write s.hosts k job := rfl
@[simp] theorem State.setJob_host_listeners (k : Nat) (job : Job) :
    (s.setJob (.host k) job).listeners = s.listeners := rfl
@[simp] theorem State.setJob_listener_hosts (j : Nat) (job : Job) :
    (s.setJob (.listener j) job).hosts = s.hosts := rfl
@[simp] theorem State.setJob_listener_listeners (j : Nat) (job : Job) :
    (s.setJob (.listener j) job).listeners = Sparse.write s.listeners j (some job) := rfl
@[simp] theorem State.endJob_host_hosts (k : Nat) : (s.endJob (.host k)).hosts = Sparse.clear s.hosts k := rfl
@[simp] theorem State.endJob_host_listeners (k : Nat) : (s.endJob (.host k)).listeners = s.listeners := rfl
@[simp] theorem State.endJob_listener_hosts (j : Nat) : (s.endJob (.listener j)).hosts = s.hosts := by
  unfold State.endJob
  repeat' split
  all_goals simp_all
@[simp] theorem State.setMembers_global_g (l : List Lid) : (s.setMembers .global l).g = l := rfl
@[simp] theorem State.setMembers_global_pl (l : List Lid) : (s.setMembers .global l).pl = s.pl := rfl
@[simp] theorem State.setMembers_pin_g (p : Pin) (l : List Lid) : (s.setMembers (.pin p) l).g = s.g := rfl
@[simp] theorem State.setMembers_pin_pl (p : Pin) (l : List Lid) : (s.setMembers (.pin p) l).pl = s.pl.set p l := rfl
@[simp] theorem State.setLock_global_lkG (l : Lock) : (s.setLock .global l).lkG = l := rfl
@[simp] theorem State.setLock_global_lkPl (l : Lock) : (s.setLock .global l).lkPl = s.lkPl := rfl
@[simp] theorem State.setLock_pin_lkG (p : Pin) (l : Lock) : (s.setLock (.pin p) l).lkG = s.lkG := rfl
@[simp] theorem State.setLock_pin_lkPl (p : Pin) (l : Lock) : (s.setLock (.pin p) l).lkPl = s.lkPl.set p l := rfl

/-- Reading a set after writing a set (R175). -/
theorem State.members_setMembers (t t' : SetId) (l : List Lid) :
    (s.setMembers t l).members t' = if t' = t then l else s.members t' := by
  cases t with
  | global => cases t' <;> simp [State.members, State.setMembers]
  | pin p =>
    cases t' with
    | global => simp [State.members, State.setMembers]
    | pin q =>
      by_cases h : q = p
      · subst h; simp [State.members, State.setMembers]
      · have h' : (p : Nat) ≠ q := fun e => h (Fin.ext e.symm)
        simp [State.members, State.setMembers, h, h']

/-- Reading a lock after writing a lock (R32). -/
theorem State.lock_setLock (t t' : SetId) (l : Lock) :
    (s.setLock t l).lock t' = if t' = t then l else s.lock t' := by
  cases t with
  | global => cases t' <;> simp [State.lock, State.setLock]
  | pin p =>
    cases t' with
    | global => simp [State.lock, State.setLock]
    | pin q =>
      by_cases h : q = p
      · subst h; simp [State.lock, State.setLock]
      · have h' : (p : Nat) ≠ q := fun e => h (Fin.ext e.symm)
        simp [State.lock, State.setLock, h, h']

-- ---- given ----

@[simp] theorem State.given_sr (a : Agent) (d : Draw) (rest : List EnvEvent) : (s.given a d rest).sr = s.sr := rfl
@[simp] theorem State.given_g (a : Agent) (d : Draw) (rest : List EnvEvent) : (s.given a d rest).g = s.g := rfl
@[simp] theorem State.given_pl (a : Agent) (d : Draw) (rest : List EnvEvent) : (s.given a d rest).pl = s.pl := rfl
@[simp] theorem State.given_lc (a : Agent) (d : Draw) (rest : List EnvEvent) : (s.given a d rest).lc = s.lc := rfl
@[simp] theorem State.given_topo (a : Agent) (d : Draw) (rest : List EnvEvent) : (s.given a d rest).topo = s.topo := rfl
@[simp] theorem State.given_csN (a : Agent) (d : Draw) (rest : List EnvEvent) : (s.given a d rest).csN = s.csN := rfl
@[simp] theorem State.given_bus (a : Agent) (d : Draw) (rest : List EnvEvent) : (s.given a d rest).bus = s.bus := rfl
@[simp] theorem State.given_faults (a : Agent) (d : Draw) (rest : List EnvEvent) : (s.given a d rest).faults = s.faults := rfl
@[simp] theorem State.given_lkG (a : Agent) (d : Draw) (rest : List EnvEvent) : (s.given a d rest).lkG = s.lkG := rfl
@[simp] theorem State.given_lkPl (a : Agent) (d : Draw) (rest : List EnvEvent) : (s.given a d rest).lkPl = s.lkPl := rfl
@[simp] theorem State.given_passes (a : Agent) (d : Draw) (rest : List EnvEvent) : (s.given a d rest).passes = s.passes := rfl
@[simp] theorem State.given_hosts (a : Agent) (d : Draw) (rest : List EnvEvent) : (s.given a d rest).hosts = s.hosts := rfl
@[simp] theorem State.given_listeners (a : Agent) (d : Draw) (rest : List EnvEvent) : (s.given a d rest).listeners = s.listeners := rfl
@[simp] theorem State.given_nextPass (a : Agent) (d : Draw) (rest : List EnvEvent) : (s.given a d rest).nextPass = s.nextPass := rfl
@[simp] theorem State.given_chip (a : Agent) (d : Draw) (rest : List EnvEvent) : (s.given a d rest).chip = s.chip := rfl
@[simp] theorem State.given_env (a : Agent) (d : Draw) (rest : List EnvEvent) : (s.given a d rest).env = rest := rfl
@[simp] theorem State.given_cur (a : Agent) (d : Draw) (rest : List EnvEvent) : (s.given a d rest).cur = a := rfl
@[simp] theorem State.given_draw (a : Agent) (d : Draw) (rest : List EnvEvent) : (s.given a d rest).draw = d := rfl
@[simp] theorem State.given_trace (a : Agent) (d : Draw) (rest : List EnvEvent) : (s.given a d rest).trace = s.trace := rfl

-- ---- released ----

@[simp] theorem State.released_sr : s.released.sr = s.sr := rfl
@[simp] theorem State.released_g : s.released.g = s.g := rfl
@[simp] theorem State.released_pl : s.released.pl = s.pl := rfl
@[simp] theorem State.released_lc : s.released.lc = s.lc := rfl
@[simp] theorem State.released_topo : s.released.topo = s.topo := rfl
@[simp] theorem State.released_csN : s.released.csN = .high := rfl
@[simp] theorem State.released_bus : s.released.bus = .idle := rfl
@[simp] theorem State.released_faults : s.released.faults = s.faults := rfl
@[simp] theorem State.released_lkG : s.released.lkG = s.lkG := rfl
@[simp] theorem State.released_lkPl : s.released.lkPl = s.lkPl := rfl
@[simp] theorem State.released_passes : s.released.passes = s.passes := rfl
@[simp] theorem State.released_hosts : s.released.hosts = s.hosts := rfl
@[simp] theorem State.released_listeners : s.released.listeners = s.listeners := rfl
@[simp] theorem State.released_nextPass : s.released.nextPass = s.nextPass := rfl
@[simp] theorem State.released_chip : s.released.chip = s.chip := rfl
@[simp] theorem State.released_env : s.released.env = s.env := rfl
@[simp] theorem State.released_cur : s.released.cur = s.cur := rfl
@[simp] theorem State.released_draw : s.released.draw = s.draw := rfl
@[simp] theorem State.released_trace : s.released.trace = s.trace := rfl

-- ---- responses ----

@[simp] theorem responsesTo_nil (c : Ctx) : responsesTo c [] = [] := rfl
@[simp] theorem responsesTo_append (c : Ctx) (a b : List Output) :
    responsesTo c (a ++ b) = responsesTo c a ++ responsesTo c b := List.filterMap_append
@[simp] theorem responsesTo_response (c c' : Ctx) (w : RspWord) :
    responsesTo c [.response c' w] = if c' = c then [w] else [] := by
  by_cases h : c' = c <;> simp [responsesTo, h]
@[simp] theorem responsesTo_frame (c : Ctx) (a : Agent) (f : FrameWord) : responsesTo c [.frame a f] = [] := rfl
@[simp] theorem responsesTo_bringUp (c c' : Ctx) : responsesTo c [.bringUp c'] = [] := rfl
@[simp] theorem responsesTo_dispatch (c : Ctx) (j : Nat) (lid : Lid) (v : Bool) (pin : Pin) :
    responsesTo c [.dispatch j lid v pin] = [] := rfl

end Sys2Proof.Machine
end

