-- ==== Sys2Proof/Laws/Ops.lean ====
section
/-! SUPPORT. For each shared operation, once, everything it can do: what the proofs cite instead of unfolding it. -/

namespace Sys2Proof.Machine

variable {s : State}

-- ---- jobs ----

/-- The jobs depend on the contexts alone. -/
theorem State.job_congr {s t : State} (hh : t.hosts = s.hosts) (hl : t.listeners = s.listeners) (c : Ctx) :
    t.job c = s.job c := by
  cases c <;> simp only [State.job, hh, hl]

@[simp] theorem State.job_given (a : Agent) (d : Draw) (rest : List EnvEvent) (c : Ctx) :
    (s.given a d rest).job c = s.job c := State.job_congr rfl rfl c

/-- An IDLE listener context that ends (R219) changes no job. -/
theorem State.job_clear_listener {s t : State} {j : Nat} (hi : Sparse.read s.listeners j = some none)
    (hh : t.hosts = s.hosts) (hl : t.listeners = Sparse.clear s.listeners j) (c : Ctx) : t.job c = s.job c := by
  cases c with
  | host k => simp only [State.job, hh]
  | listener k =>
    simp only [State.job, hl, Sparse.read_clear]
    split
    · next e => rw [e, hi]; rfl
    · rfl

/-- The job of a context after one is set. -/
theorem State.job_setJob (c c' : Ctx) (job : Job) :
    (s.setJob c job).job c' = if c' = c then some job else s.job c' := by
  cases c <;> cases c' <;> simp only [State.job, State.setJob, Sparse.read_write, Ctx.host.injEq, Ctx.listener.injEq,
    reduceCtorEq, if_false]
  all_goals split <;> rfl

/-- The job of a context after one ends. -/
theorem State.job_endJob (c c' : Ctx) : (s.endJob c).job c' = if c' = c then none else s.job c' := by
  cases c with
  | host k => cases c' <;> simp [State.job, State.endJob, Sparse.read_clear]
  | listener j =>
    cases c' with
    | host k => simp [State.job]
    | listener j' =>
      simp only [State.job, State.endJob, Ctx.listener.injEq]
      split
      · simp only [Sparse.read_write]; split <;> simp_all
      · next h => split <;> simp_all

/-- The job of a context after an answer: only the context answered has changed, and is IDLE (R36). -/
theorem State.job_answered (c c' : Ctx) (st : Byte) (r : BitVec 16) :
    (s.answered c st r).job c' = if c' = c then none else s.job c' := by
  rw [← State.job_endJob]; cases c' <;> rfl

/-- The job of a context after one goes on in a phase. -/
theorem State.job_waiting (c c' : Ctx) (i : Instr) (ph : Phase) :
    (s.waiting c i ph).job c' = if c' = c then some { code := encode i, phase := ph } else s.job c' :=
  State.job_setJob _ _ _

/-- The phase of the context that has the step. -/
theorem State.phase_ctx {c : Ctx} (h : s.cur = .ctx c) :
    s.phase = some (match s.job c with | some job => job.phase | none => .decode) := by
  simp only [State.phase, h]; split <;> simp_all

/-- The phase in the turn of a BUSY context is its job's. -/
theorem State.phase_given {c : Ctx} {job : Job} (hj : s.job c = some job) (d : Draw) (rest : List EnvEvent) :
    (s.given (.ctx c) d rest).phase = some job.phase := by
  rw [State.phase_ctx (c := c) rfl, State.job_given, hj]

/-- A context past its decode step is BUSY. -/
theorem State.job_of_phase {c : Ctx} {ph : Phase} (h : s.cur = .ctx c) (hp : s.phase = some ph) (hd : ph ≠ .decode) :
    ∃ job, s.job c = some job ∧ job.phase = ph := by
  rw [State.phase_ctx h] at hp
  cases hj : s.job c with
  | none => simp [hj] at hp; exact absurd hp.symm hd
  | some job => exact ⟨job, rfl, by simpa [hj] using hp⟩

-- ---- ending and holding a command ----

theorem State.hold_ctx {c : Ctx} (h : s.cur = .ctx c) (i : Instr) (ph : Phase) : s.hold i ph = s.waiting c i ph := by
  simp [State.hold, h, State.waiting]

theorem State.complete_ctx {c : Ctx} (h : s.cur = .ctx c) (st : Status) (r : BitVec 16) :
    s.complete st r = s.answered c (statusCode st) r := by
  simp [State.complete, h, State.answered, State.emit, responseWord]

theorem State.raise_ctx {c : Ctx} (h : s.cur = .ctx c) (st : Status) : s.raise st = s.answered c (statusCode st) 0 :=
  State.complete_ctx h st 0

theorem State.respond_ctx {c : Ctx} (h : s.cur = .ctx c) (r : BitVec 16) : s.respond r = s.answered c 0x00 r :=
  State.complete_ctx h .ok r

-- ---- the decode step ----

theorem State.enter_ready (h : s.lc = .ready) (k : State → State) : s.enter k = k s := by
  simp [State.enter, State.entryStatus, h]

theorem State.enter_fatal (h : s.lc = .fatal) (k : State → State) : s.enter k = s.raise .fatal := by
  simp [State.enter, State.entryStatus, h]

theorem State.enter_unready (h : s.lc = .unconstructed ∨ s.lc = .constructing) (k : State → State) :
    s.enter k = s.raise .notConstructed := by
  rcases h with h | h <;> simp [State.enter, State.entryStatus, h]

theorem State.enterConstruction_unconstructed (h : s.lc = .unconstructed) (k : State → State) :
    s.enterConstruction k = k s := by
  simp [State.enterConstruction, State.entryStatus, h]

theorem State.enterConstruction_fatal (h : s.lc = .fatal) (k : State → State) :
    s.enterConstruction k = s.raise .fatal := by
  simp [State.enterConstruction, State.entryStatus, h]

theorem State.enterConstruction_again (h : s.lc = .constructing ∨ s.lc = .ready) (k : State → State) :
    s.enterConstruction k = s.raise .alreadyConstructed := by
  rcases h with h | h <;> simp [State.enterConstruction, State.entryStatus, h]

theorem State.withPin_valid {n : Nat} (h : n < 16) (k : Pin → State → State) : s.withPin n k = k ⟨n, h⟩ s := by
  simp [State.withPin, fromIdentifier, h]

theorem State.withPin_invalid {n : Nat} (h : ¬ n < 16) (k : Pin → State → State) :
    s.withPin n k = s.raise .invalidPin := by
  simp [State.withPin, fromIdentifier, h]

-- ---- frames ----

theorem State.frameBegin_idle (h : s.bus = .idle) (f : FrameWord) : s.frameBegin f = some (s.framed s.cur f) := by
  simp [State.frameBegin, h, State.framed, State.emit]

theorem State.frameBegin_busy {a : Agent} {g : FrameWord} (h : s.bus = .busy a g) (f : FrameWord) :
    s.frameBegin f = none := by
  simp [State.frameBegin, h]

theorem State.beginFrame_idle {c : Ctx} (hc : s.cur = .ctx c) (h : s.bus = .idle) (i : Instr) (f : FrameWord) :
    s.beginFrame i f = (s.framed (.ctx c) f).waiting c i .frameBegun := by
  simp [State.beginFrame, State.frameBegin_idle h, hc, State.hold]
  rfl

theorem State.beginFrame_busy {c : Ctx} {a : Agent} {g : FrameWord} (hc : s.cur = .ctx c) (h : s.bus = .busy a g)
    (i : Instr) (f : FrameWord) : s.beginFrame i f = s.busConflict.waiting c i .stuck := by
  simp [State.beginFrame, State.frameBegin_busy h, hc, State.hold]
  rfl

theorem State.endFrame_ok {r0 r1 r2 : Byte} (h : s.draw.frame = .ok r0 r1 r2) (k : Byte → State → State) :
    s.endFrame k = k r2 s.frameEnd := by
  simp [State.endFrame, h]

theorem State.endFrame_fail {landed : Bool} (h : s.draw.frame = .fail landed) (k : Byte → State → State) :
    s.endFrame k = s.frameEnd.raise .ioFailure := by
  simp [State.endFrame, h]

@[simp] theorem chipAfter_idle (o : FrameOutcome) (m : Memory) : chipAfter .idle o m = m := rfl

/-- All a frame's end can do to the chip's registers: nothing, or one whole write at the frame's address (R51). -/
theorem chipAfter_cases (bus : Bus) (o : FrameOutcome) (m : Memory) :
    chipAfter bus o m = m ∨
      ∃ a f, bus = .busy a f ∧ chipAfter bus o m = Sparse.write m (frameByte1 f).toNat (frameByte2 f) := by
  cases bus with
  | idle => exact .inl rfl
  | busy a f =>
    simp only [chipAfter]
    split
    · split
      · exact .inr ⟨a, f, rfl, rfl⟩
      · exact .inr ⟨a, f, rfl, rfl⟩
      · exact .inl rfl
    · exact .inl rfl

/-- Every operation on the chip's registers keeps their canonical form. -/
theorem chipAfter_wf (bus : Bus) (o : FrameOutcome) {m : Memory} (h : Memory.wf m = true) :
    Memory.wf (chipAfter bus o m) = true := by
  rcases chipAfter_cases bus o m with e | ⟨a, f, -, e⟩
  · rw [e]; exact h
  · rw [e]
    simp only [Memory.wf, Bool.and_eq_true, List.all_eq_true, decide_eq_true_eq] at h ⊢
    refine ⟨Sparse.wf_write _ _ h.1, fun x hx => ?_⟩
    rcases Sparse.mem_write hx with rfl | hx
    · exact (frameByte1 f).isLt
    · exact h.2 x hx

/-- The register space after reset is in canonical form. -/
theorem reset_chip_wf : Memory.wf State.reset.chip = true := rfl

-- ---- listener sets ----

/-- The sets depend on G and PL alone. -/
theorem State.members_congr {s t : State} (hg : t.g = s.g) (hp : t.pl = s.pl) (u : SetId) : t.members u = s.members u := by
  cases u <;> simp only [State.members, hg, hp]

/-- The locks depend on LK_G and LK_PL alone. -/
theorem State.lock_congr {s t : State} (hg : t.lkG = s.lkG) (hp : t.lkPl = s.lkPl) (u : SetId) : t.lock u = s.lock u := by
  cases u <;> simp only [State.lock, hg, hp]

theorem State.whenFree_free {t : SetId} (h : s.lock t = .free) (k : State → State) : s.whenFree t k = k s := by
  simp [State.whenFree, h]

theorem State.whenFree_held {t : SetId} {j : Nat} (h : s.lock t = .held j) (k : State → State) : s.whenFree t k = s := by
  simp [State.whenFree, h]

theorem State.addMember_refused {t : SetId} {lid : Lid} (h : lid = 0 ∨ lid ∈ s.members t) :
    s.addMember t lid = s.raise .invalidArgument := by
  rcases h with h | h
  · simp [State.addMember, h]
  · simp only [State.addMember, h, if_true]; split <;> rfl

theorem State.addMember_ok {t : SetId} {lid : Lid} (h₀ : lid ≠ 0) (h : lid ∉ s.members t) :
    s.addMember t lid = (s.setMembers t (lidAdd (s.members t) lid)).respond 0 := by
  rw [State.addMember, if_neg h₀, if_neg h]

theorem State.removeMember_refused {t : SetId} {lid : Lid} (h : lid = 0 ∨ lid ∉ s.members t) :
    s.removeMember t lid = s.raise .invalidArgument := by
  rcases h with h | h
  · simp [State.removeMember, h]
  · simp [State.removeMember, h]

theorem State.removeMember_ok {t : SetId} {lid : Lid} (h₀ : lid ≠ 0) (h : lid ∈ s.members t) :
    s.removeMember t lid = (s.setMembers t (lidRemove (s.members t) lid)).respond 0 := by
  rw [State.removeMember, if_neg h₀, if_pos h]

-- ---- shadow registers ----

/-- Reading the shadow file after writing a byte of it (R22, R58). -/
theorem Shadow.get_set (sr : Shadow) (c c' : Concern) (P P' : Port) (b : Byte) :
    (sr.set c P b).get c' P' = if c' = c ∧ P' = P then b else sr.get c' P' := by
  cases c <;> cases c' <;> cases P <;> cases P' <;> rfl

/-- Two shadow files with the same fourteen bytes are equal (R21). -/
theorem Shadow.ext_get {a b : Shadow} (h : ∀ c P, a.get c P = b.get c P) : a = b := by
  obtain ⟨⟨_, _⟩, ⟨_, _⟩, ⟨_, _⟩, ⟨_, _⟩, ⟨_, _⟩, ⟨_, _⟩, ⟨_, _⟩⟩ := a
  obtain ⟨⟨_, _⟩, ⟨_, _⟩, ⟨_, _⟩, ⟨_, _⟩, ⟨_, _⟩, ⟨_, _⟩, ⟨_, _⟩⟩ := b
  have h0 := h .iodir; have h1 := h .ipol; have h2 := h .gpinten; have h3 := h .defval
  have h4 := h .intcon; have h5 := h .gppu; have h6 := h .olat
  have a0 := h0 .A; have b0 := h0 .B; have a1 := h1 .A; have b1 := h1 .B; have a2 := h2 .A; have b2 := h2 .B
  have a3 := h3 .A; have b3 := h3 .B; have a4 := h4 .A; have b4 := h4 .B; have a5 := h5 .A; have b5 := h5 .B
  have a6 := h6 .A; have b6 := h6 .B
  simp only [Shadow.get, Shadow.pair, PortPair.half] at *
  subst_vars
  rfl

end Sys2Proof.Machine
end

