-- ==== Sys2Proof/Laws/Effects.lean ====
section
/-! SUPPORT. Everything one step can do, said once: the effects of an instruction run by a context (`CtxEffect`), of a pass's
frame (`FrameEffect`), of a pass's other steps (`RouterEffect`), and of a step of the machine (`StepEffect`). A proof about
every step takes the effect apart and unfolds no meaning. -/

namespace Sys2Proof.Machine

/-- What one step of instruction `i`, run by context `c`, can do. -/
inductive CtxEffect (c : Ctx) (i : Instr) (s : State) : State → Prop where
  /-- Nothing: it waits, or is stuck. -/
  | idle : CtxEffect c i s s
  /-- It ends with a response and no other change (R240 to R246, or its result). -/
  | answer (st : Byte) (r : BitVec 16) (h : s.phase = some .decode ∨ ¬ IsConstruction i)
      (hp : s.phase ≠ some .frameBegun) (hs : s.phase ≠ some .stuck)
      (hw : ∀ u, s.phase = some .waitLock → ListenerCommandOn u i → s.lock u = .free) :
      CtxEffect c i s (s.answered c st r)
  /-- Its decode step is done and it goes on in phase `ph`. -/
  | goOn (ph : Phase) (hd : s.phase = some .decode) (hl : s.lc = .ready) (hc : ¬ IsConstruction i)
      (hph : ph = .frameReady ∨ ph = .waitLock ∨ ∃ b, ph = .setterRead b) : CtxEffect c i s (s.waiting c i ph)
  /-- A setter's write step (R118). -/
  | write (k : Concern) (n : Nat) (v : Bool) (b b' : Byte) (hi : i = setterOf k n v) (hn : n ≤ 15)
      (hp : s.phase = some (.setterRead b)) :
      CtxEffect c i s (({ s with sr := s.sr.set k (portFor n) b' } : State).answered c 0x00 0)
  /-- Its FrameBegin (R47). -/
  | begins (f : FrameWord) (hb : s.bus = .idle)
      (h : (s.phase = some .decode ∧ ¬ IsConstruction i ∧ (s.lc = .ready ∨ IsFrame i)) ∨ s.phase = some .frameReady) :
      CtxEffect c i s ((s.framed (.ctx c) f).waiting c i .frameBegun)
  /-- Its FrameBegin on a busy bus (R52). -/
  | conflict (a : Agent) (f : FrameWord) (hb : s.bus = .busy a f)
      (h : (s.phase = some .decode ∧ ¬ IsConstruction i ∧ (s.lc = .ready ∨ IsFrame i)) ∨ s.phase = some .frameReady) :
      CtxEffect c i s (s.busConflict.waiting c i .stuck)
  /-- Its FrameEnd, with its response (R47 to R49). -/
  | ends (st : Byte) (r : BitVec 16) (hp : s.phase = some .frameBegun) (hc : ¬ IsConstruction i) :
      CtxEffect c i s (s.frameEnd.answered c st r)
  /-- CONSTRUCT_TIED's FrameEnd on OK (R193). -/
  | tiedOk (hi : i = .constructTied) (hp : s.phase = some .frameBegun) : CtxEffect c i s (s.frameEnd.waiting c i .final)
  /-- CONSTRUCT_TIED's FrameEnd on FAIL (R190, R193). -/
  | tiedFail (hi : i = .constructTied) (hp : s.phase = some .frameBegun) :
      CtxEffect c i s (({ s.frameEnd with lc := .unconstructed } : State).answered c 0x03 0)
  /-- An add (R171, R173). -/
  | joins (u : SetId) (lid : Lid) (hp : s.phase = some .waitLock) (hl : s.lock u = .free) (h : lid ≠ 0)
      (hi : ListenerCommandOn u i) (hc : ¬ IsConstruction i) :
      CtxEffect c i s ((s.setMembers u (lidAdd (s.members u) lid)).answered c 0x00 0)
  /-- A remove (R172, R174). -/
  | leaves (u : SetId) (lid : Lid) (hp : s.phase = some .waitLock) (hl : s.lock u = .free)
      (hi : ListenerCommandOn u i) (hc : ¬ IsConstruction i) :
      CtxEffect c i s ((s.setMembers u (lidRemove (s.members u) lid)).answered c 0x00 0)
  /-- A construction's decode step (R190 step 1). -/
  | constructs (t : Topology) (hi : i = constructOf t) (hd : s.phase = some .decode) (hl : s.lc = .unconstructed) :
      CtxEffect c i s (({ s with lc := .constructing } : State).waiting c i .bringUp)
  /-- A construction's bring-up on OK (R191). -/
  | bringUpOk (t : Topology) (hi : i = constructOf t) (hp : s.phase = some .bringUp) (ph : Phase)
      (hph : ph = .frameReady ∨ ph = .final) :
      CtxEffect c i s (({ s with csN := .high, trace := s.trace ++ [.bringUp c] } : State).waiting c i ph)
  /-- A construction's bring-up on FAIL (R190, R191). -/
  | bringUpFail (t : Topology) (hi : i = constructOf t) (hp : s.phase = some .bringUp) :
      CtxEffect c i s
        (({ s with lc := .unconstructed, trace := s.trace ++ [.bringUp c] } : State).answered c 0x03 0)
  /-- A construction's final step (R190). -/
  | finishes (t : Topology) (hi : i = constructOf t) (hp : s.phase = some .final) :
      CtxEffect c i s (({ s with lc := .ready, topo := t } : State).answered c 0x00 0)

section ctx

variable {s : State} {c : Ctx} {i : Instr}

/-- A getter, or GET, or GET_PIN_VIEW, is no construction, and so on: the constructor decides. -/
theorem not_construction_of (h : ∀ t, i ≠ constructOf t) : ¬ IsConstruction i := fun ⟨t, e⟩ => h t e

theorem CtxEffect.enter (hc : s.cur = .ctx c) (hp : s.phase = some .decode) {k : State → State}
    (h : s.lc = .ready → CtxEffect c i s (k s)) : CtxEffect c i s (s.enter k) := by
  simp only [State.enter]
  cases hl : s.lc <;> simp only [State.entryStatus, hl]
  · rw [State.raise_ctx hc]; exact .answer _ _ (.inl hp) (by simp [hp]) (by simp [hp]) (by simp [hp])
  · rw [State.raise_ctx hc]; exact .answer _ _ (.inl hp) (by simp [hp]) (by simp [hp]) (by simp [hp])
  · exact h hl
  · rw [State.raise_ctx hc]; exact .answer _ _ (.inl hp) (by simp [hp]) (by simp [hp]) (by simp [hp])

theorem CtxEffect.withPin (hc : s.cur = .ctx c) (hi : s.phase = some .decode ∨ ¬ IsConstruction i)
    (hp : s.phase ≠ some .frameBegun) (hs : s.phase ≠ some .stuck) {n : Nat}
    (hw : 16 ≤ n → ∀ u, s.phase = some .waitLock → ListenerCommandOn u i → s.lock u = .free) {k : Pin → State → State}
    (h : ∀ p : Pin, p.val = n → CtxEffect c i s (k p s)) : CtxEffect c i s (s.withPin n k) := by
  by_cases hn : n < 16
  · rw [State.withPin_valid hn]; exact h _ rfl
  · rw [State.withPin_invalid hn, State.raise_ctx hc]; exact .answer _ _ hi hp hs (hw (Nat.le_of_not_lt hn))

theorem CtxEffect.beginFrame (hc : s.cur = .ctx c) (f : FrameWord)
    (h : (s.phase = some .decode ∧ ¬ IsConstruction i ∧ (s.lc = .ready ∨ IsFrame i)) ∨ s.phase = some .frameReady) :
    CtxEffect c i s (s.beginFrame i f) := by
  cases hb : s.bus with
  | idle => rw [State.beginFrame_idle hc hb]; exact .begins f hb h
  | busy a g => rw [State.beginFrame_busy hc hb]; exact .conflict a g hb h

theorem CtxEffect.endFrame (hc : s.cur = .ctx c) (hp : s.phase = some .frameBegun) (hn : ¬ IsConstruction i)
    {k : Byte → State → State} (h : ∀ r, ∃ st v, k r s.frameEnd = s.frameEnd.answered c st v) :
    CtxEffect c i s (s.endFrame k) := by
  cases hd : s.draw.frame with
  | ok r0 r1 r2 =>
    obtain ⟨st, v, e⟩ := h r2
    rw [State.endFrame_ok hd, e]; exact .ends st v hp hn
  | fail l =>
    have hc' : s.frameEnd.cur = .ctx c := hc
    rw [State.endFrame_fail hd, State.raise_ctx hc']; exact .ends _ _ hp hn

theorem getter_effect (hc : s.cur = .ctx c) (k : Concern) (n : Nat) :
    CtxEffect c i s (getter k n s) := by
  simp only [getter]
  split
  · next hp =>
    refine .enter hc hp fun _ => .withPin hc (.inl hp) (by simp [hp]) (by simp [hp]) (by simp [hp]) fun p _ => ?_
    rw [State.respond_ctx hc]
    exact .answer _ _ (.inl hp) (by simp [hp]) (by simp [hp]) (by simp [hp])
  · exact .idle

theorem getValue_effect (hc : s.cur = .ctx c) (n : Nat) : CtxEffect c (.get n) s (getValue n s) := by
  have hn : ¬ IsConstruction (.get n) := not_construction_of fun t => by cases t <;> simp [constructOf]
  simp only [getValue]
  split
  · next hp =>
    refine .enter hc hp fun hl => .withPin hc (.inl hp) (by simp [hp]) (by simp [hp]) (by simp [hp]) fun p _ => ?_
    split
    · rw [State.hold_ctx hc]; exact .goOn _ hp hl hn (.inl rfl)
    · rw [State.respond_ctx hc]; exact .answer _ _ (.inl hp) (by simp [hp]) (by simp [hp]) (by simp [hp])
  · next hp => exact .withPin hc (.inr hn) (by simp [hp]) (by simp [hp]) (by simp [hp]) fun p _ => .beginFrame hc _ (.inr hp)
  · next hp =>
    refine .endFrame hc hp hn fun r => ?_
    have hc' : s.frameEnd.cur = .ctx c := hc
    by_cases h : n < 16
    · exact ⟨_, _, by rw [State.withPin_valid h, State.respond_ctx hc']⟩
    · exact ⟨_, _, by rw [State.withPin_invalid h, State.raise_ctx hc']⟩
  · exact .idle

/-- The port of a pin, from its number (R91). -/
theorem portOf_eq_portFor (p : Pin) : portOf p = portFor p.val := by revert p; decide

theorem setter_effect (hc : s.cur = .ctx c) (k : Concern) (n : Nat) (v : Bool) :
    CtxEffect c (setterOf k n v) s (setter (setterOf k n v) k n v s) := by
  have hn : ¬ IsConstruction (setterOf k n v) := not_construction_of fun t => by
    cases t <;> cases k <;> simp [constructOf, setterOf]
  simp only [setter]
  split
  · next hp =>
    refine .enter hc hp fun hl => .withPin hc (.inl hp) (by simp [hp]) (by simp [hp]) (by simp [hp]) fun p _ => ?_
    rw [State.hold_ctx hc]
    exact .goOn _ hp hl hn (.inr (.inr ⟨_, rfl⟩))
  · next b hp =>
    refine .withPin hc (.inr hn) (by simp [hp]) (by simp [hp]) (by simp [hp]) fun p hpn => ?_
    rw [State.respond_ctx (by exact hc), portOf_eq_portFor, hpn]
    exact .write k n v b _ rfl (by have := p.isLt; omega) hp
  · exact .idle

theorem globalListener_effect (hc : s.cur = .ctx c) (hn : ¬ IsConstruction i) {act : State → State}
    (h : s.phase = some .waitLock → s.lock .global = .free → CtxEffect c i s (act s)) :
    CtxEffect c i s (globalListener i act s) := by
  simp only [globalListener]
  split
  · next hp =>
    refine .enter hc hp fun hl => ?_
    rw [State.hold_ctx hc]
    exact .goOn _ hp hl hn (.inr (.inl rfl))
  · next hp =>
    cases hl : s.lock .global with
    | free => rw [State.whenFree_free hl]; exact h hp hl
    | held j => rw [State.whenFree_held hl]; exact .idle
  · exact .idle

/-- The global listener commands are those on G. -/
theorem listenerCommandOn_global {u : SetId} {lid : Lid} :
    (ListenerCommandOn u (.addGlobalListener lid) ↔ u = .global) ∧
      (ListenerCommandOn u (.removeGlobalListener lid) ↔ u = .global) := by
  cases u <;> simp [ListenerCommandOn]

/-- The pin listener commands with field A = n are those on PL[n], and on no set where n > 15. -/
theorem listenerCommandOn_pin {u : SetId} {n : Nat} {lid : Lid} :
    (ListenerCommandOn u (.addPinListener n lid) ↔ ∃ q : Pin, u = .pin q ∧ q.val = n) ∧
      (ListenerCommandOn u (.removePinListener n lid) ↔ ∃ q : Pin, u = .pin q ∧ q.val = n) := by
  cases u <;> simp [ListenerCommandOn, eq_comm]

/-- The commands on PL[p] are the pin listener commands with field A = p, and are on no other set. -/
theorem listenerCommandOn_pin_iff {u : SetId} {i : Instr} {p : Pin}
    (h : ∀ u, ListenerCommandOn u i ↔ ∃ q : Pin, u = .pin q ∧ q.val = p.val) : ListenerCommandOn u i ↔ u = .pin p :=
  (h u).trans ⟨fun ⟨_, e, hq⟩ => e.trans (congrArg _ (Fin.ext hq)), fun e => ⟨p, e, rfl⟩⟩

theorem pinListener_effect (hc : s.cur = .ctx c) (hn : ¬ IsConstruction i) {n : Nat} {act : Pin → State → State}
    (hi : ∀ u, ListenerCommandOn u i ↔ ∃ q : Pin, u = .pin q ∧ q.val = n)
    (h : ∀ p : Pin, (∀ u, ListenerCommandOn u i ↔ u = .pin p) → s.phase = some .waitLock → s.lock (.pin p) = .free →
      CtxEffect c i s (act p s)) :
    CtxEffect c i s (pinListener i n act s) := by
  simp only [pinListener]
  split
  · next hp =>
    refine .enter hc hp fun hl => .withPin hc (.inl hp) (by simp [hp]) (by simp [hp]) (by simp [hp]) fun p _ => ?_
    rw [State.hold_ctx hc]
    exact .goOn _ hp hl hn (.inr (.inl rfl))
  · next hp =>
    refine .withPin hc (.inr hn) (by simp [hp]) (by simp [hp]) (fun hn16 u _ hu => ?_) fun p hpn => ?_
    · obtain ⟨q, _, hq⟩ := (hi u).1 hu
      exact absurd q.isLt (by omega)
    · subst hpn
      cases hl : s.lock (.pin p) with
      | free => rw [State.whenFree_free hl]; exact h p (fun _ => listenerCommandOn_pin_iff hi) hp hl
      | held j => rw [State.whenFree_held hl]; exact .idle
  · exact .idle

theorem addMember_effect (hc : s.cur = .ctx c) (hn : ¬ IsConstruction i) {u : SetId}
    (hu : ∀ u', ListenerCommandOn u' i ↔ u' = u) (lid : Lid) (hp : s.phase = some .waitLock) (hl : s.lock u = .free) :
    CtxEffect c i s (s.addMember u lid) := by
  by_cases h : lid = 0 ∨ lid ∈ s.members u
  · rw [State.addMember_refused h, State.raise_ctx hc]
    exact .answer _ _ (.inr hn) (by simp [hp]) (by simp [hp]) fun u' _ h => (hu u').1 h ▸ hl
  · rw [not_or] at h
    rw [State.addMember_ok h.1 h.2, State.respond_ctx (by cases u <;> exact hc)]
    exact .joins u lid hp hl h.1 ((hu u).2 rfl) hn

theorem removeMember_effect (hc : s.cur = .ctx c) (hn : ¬ IsConstruction i) {u : SetId}
    (hu : ∀ u', ListenerCommandOn u' i ↔ u' = u) (lid : Lid) (hp : s.phase = some .waitLock) (hl : s.lock u = .free) :
    CtxEffect c i s (s.removeMember u lid) := by
  by_cases h : lid = 0 ∨ lid ∉ s.members u
  · rw [State.removeMember_refused h, State.raise_ctx hc]
    exact .answer _ _ (.inr hn) (by simp [hp]) (by simp [hp]) fun u' _ h => (hu u').1 h ▸ hl
  · rw [not_or, not_not] at h
    rw [State.removeMember_ok h.1 h.2, State.respond_ctx (by cases u <;> exact hc)]
    exact .leaves u lid hp hl ((hu u).2 rfl) hn

theorem commit_effect (hc : s.cur = .ctx c) (hn : ¬ IsConstruction i) (k : Concern) (P : Port) :
    CtxEffect c i s (commit i k P s) := by
  simp only [commit]
  split
  · next hp => exact .enter hc hp fun hl => .beginFrame hc _ (.inl ⟨hp, hn, .inl hl⟩)
  · next hp => exact .endFrame hc hp hn fun r => ⟨_, _, State.respond_ctx (by exact hc) _⟩
  · exact .idle

theorem readReg_effect (hc : s.cur = .ctx c) (a : Byte) :
    ∃ t, exec (.readReg a) s = .next t ∧ CtxEffect c (.readReg a) s t := by
  have hn : ¬ IsConstruction (.readReg a) := not_construction_of fun t => by cases t <;> simp [constructOf]
  refine ⟨_, rfl, ?_⟩
  split
  · next hp => exact .enter hc hp fun hl => .beginFrame hc _ (.inl ⟨hp, hn, .inl hl⟩)
  · next hp => exact .endFrame hc hp hn fun r => ⟨_, _, State.respond_ctx (by exact hc) _⟩
  · exact .idle

theorem getPinView_effect (hc : s.cur = .ctx c) (n : Nat) :
    ∃ t, exec (.getPinView n) s = .next t ∧ CtxEffect c (.getPinView n) s t := by
  refine ⟨_, rfl, ?_⟩
  split
  · next hp =>
    refine .enter hc hp fun _ => .withPin hc (.inl hp) (by simp [hp]) (by simp [hp]) (by simp [hp]) fun p _ => ?_
    rw [State.respond_ctx hc]
    exact .answer _ _ (.inl hp) (by simp [hp]) (by simp [hp]) (by simp [hp])
  · exact .idle

theorem frameStep_effect (hc : s.cur = .ctx c) (hi : IsFrame i) (f : FrameWord) (value : Byte → Option Byte) :
    CtxEffect c i s (frameStep i f value s) := by
  have hn : ¬ IsConstruction i := not_construction_of fun t => by
    obtain ⟨a, v, rfl⟩ | ⟨a, rfl⟩ := hi <;> cases t <;> simp [constructOf]
  simp only [frameStep, hc]
  split
  · next hp => exact .beginFrame hc _ (.inl ⟨hp, hn, .inr hi⟩)
  · next hp => exact .endFrame hc hp hn fun r => ⟨_, _, State.respond_ctx (by exact hc) _⟩
  · exact .idle

/-- The decode step of a construction (R190 step 1). -/
theorem enterConstruction_effect (hc : s.cur = .ctx c) (hp : s.phase = some .decode) (t : Topology) :
    CtxEffect c (constructOf t) s
      (s.enterConstruction fun s => ({ s with lc := .constructing } : State).hold (constructOf t) .bringUp) := by
  simp only [State.enterConstruction]
  cases hl : s.lc <;> simp only [State.entryStatus, hl]
  · rw [State.hold_ctx (by exact hc)]; exact .constructs t rfl hp hl
  · rw [State.raise_ctx hc]; exact .answer _ _ (.inl hp) (by simp [hp]) (by simp [hp]) (by simp [hp])
  · rw [State.raise_ctx hc]; exact .answer _ _ (.inl hp) (by simp [hp]) (by simp [hp]) (by simp [hp])
  · rw [State.raise_ctx hc]; exact .answer _ _ (.inl hp) (by simp [hp]) (by simp [hp]) (by simp [hp])

/-- The bring-up step of a construction (R191). -/
theorem csBringUp_effect (hc : s.cur = .ctx c) (hp : s.phase = some .bringUp) (t : Topology) {ph : Phase}
    (hph : ph = .frameReady ∨ ph = .final) : CtxEffect c (constructOf t) s (s.csBringUp (constructOf t) ph) := by
  simp only [State.csBringUp, hc]
  split
  · rw [State.hold_ctx (c := c) rfl]
    have := CtxEffect.bringUpOk (c := c) (s := s) t rfl hp ph hph
    simpa only [State.emit, hc] using this
  · rw [State.constructFails, State.raise_ctx (by exact hc)]
    exact .bringUpFail t rfl hp

theorem construct_effect (hc : s.cur = .ctx c) (t : Topology) :
    ∃ u, exec (constructOf t) s = .next u ∧ CtxEffect c (constructOf t) s u := by
  have plain : CtxEffect c (constructOf t) s (constructPlain (constructOf t) t s) := by
    simp only [constructPlain]
    split
    · next hp => exact enterConstruction_effect hc hp t
    · next hp => exact csBringUp_effect hc hp t (.inr rfl)
    · next hp => rw [State.constructDone, State.respond_ctx (by exact hc)]; exact .finishes t rfl hp
    · exact .idle
  cases t with
  | tied =>
    refine ⟨_, rfl, ?_⟩
    split
    · next hp => exact enterConstruction_effect hc hp .tied
    · next hp => exact csBringUp_effect hc hp .tied (.inl rfl)
    · next hp => exact .beginFrame hc _ (.inr hp)
    · next hp =>
      split
      · rw [State.hold_ctx (by exact hc)]; exact .tiedOk rfl hp
      · rw [State.constructFails, State.raise_ctx (by exact hc)]; exact .tiedFail rfl hp
    · next hp => rw [State.constructDone, State.respond_ctx (by exact hc)]; exact .finishes .tied rfl hp
    · exact .idle
  | none => exact ⟨_, rfl, plain⟩
  | both => exact ⟨_, rfl, plain⟩
  | aOnly => exact ⟨_, rfl, plain⟩
  | bOnly => exact ⟨_, rfl, plain⟩

/-- Everything an instruction can do in a step of context `c`. -/
theorem exec_ctx_effect (hc : s.cur = .ctx c) (i : Instr) : ∃ t, exec i s = .next t ∧ CtxEffect c i s t := by
  have nc : ∀ {i : Instr}, (∀ t, i ≠ constructOf t) → ¬ IsConstruction i := not_construction_of
  cases i with
  | getDir n => exact ⟨_, rfl, getter_effect hc _ _⟩
  | getIpol n => exact ⟨_, rfl, getter_effect hc _ _⟩
  | getInten n => exact ⟨_, rfl, getter_effect hc _ _⟩
  | getDefval n => exact ⟨_, rfl, getter_effect hc _ _⟩
  | getIntcon n => exact ⟨_, rfl, getter_effect hc _ _⟩
  | getPu n => exact ⟨_, rfl, getter_effect hc _ _⟩
  | get n => exact ⟨_, rfl, getValue_effect hc n⟩
  | setDir n v => exact ⟨_, rfl, setter_effect hc .iodir n v⟩
  | setIpol n v => exact ⟨_, rfl, setter_effect hc .ipol n v⟩
  | setInten n v => exact ⟨_, rfl, setter_effect hc .gpinten n v⟩
  | setDefval n v => exact ⟨_, rfl, setter_effect hc .defval n v⟩
  | setIntcon n v => exact ⟨_, rfl, setter_effect hc .intcon n v⟩
  | setPu n v => exact ⟨_, rfl, setter_effect hc .gppu n v⟩
  | setOut n v => exact ⟨_, rfl, setter_effect hc .olat n v⟩
  | commitIodirA => exact ⟨_, rfl, commit_effect hc (nc fun t => by cases t <;> simp [constructOf]) _ _⟩
  | commitIpolA => exact ⟨_, rfl, commit_effect hc (nc fun t => by cases t <;> simp [constructOf]) _ _⟩
  | commitGpintenA => exact ⟨_, rfl, commit_effect hc (nc fun t => by cases t <;> simp [constructOf]) _ _⟩
  | commitDefvalA => exact ⟨_, rfl, commit_effect hc (nc fun t => by cases t <;> simp [constructOf]) _ _⟩
  | commitIntconA => exact ⟨_, rfl, commit_effect hc (nc fun t => by cases t <;> simp [constructOf]) _ _⟩
  | commitGppuA => exact ⟨_, rfl, commit_effect hc (nc fun t => by cases t <;> simp [constructOf]) _ _⟩
  | commitOlatA => exact ⟨_, rfl, commit_effect hc (nc fun t => by cases t <;> simp [constructOf]) _ _⟩
  | commitIodirB => exact ⟨_, rfl, commit_effect hc (nc fun t => by cases t <;> simp [constructOf]) _ _⟩
  | commitIpolB => exact ⟨_, rfl, commit_effect hc (nc fun t => by cases t <;> simp [constructOf]) _ _⟩
  | commitGpintenB => exact ⟨_, rfl, commit_effect hc (nc fun t => by cases t <;> simp [constructOf]) _ _⟩
  | commitDefvalB => exact ⟨_, rfl, commit_effect hc (nc fun t => by cases t <;> simp [constructOf]) _ _⟩
  | commitIntconB => exact ⟨_, rfl, commit_effect hc (nc fun t => by cases t <;> simp [constructOf]) _ _⟩
  | commitGppuB => exact ⟨_, rfl, commit_effect hc (nc fun t => by cases t <;> simp [constructOf]) _ _⟩
  | commitOlatB => exact ⟨_, rfl, commit_effect hc (nc fun t => by cases t <;> simp [constructOf]) _ _⟩
  | addPinListener n lid =>
    have h := nc (i := .addPinListener n lid) fun t => by cases t <;> simp [constructOf]
    exact ⟨_, rfl, pinListener_effect hc h (fun _ => listenerCommandOn_pin.1) fun _ hu hp hl =>
      addMember_effect hc h hu lid hp hl⟩
  | removePinListener n lid =>
    have h := nc (i := .removePinListener n lid) fun t => by cases t <;> simp [constructOf]
    exact ⟨_, rfl, pinListener_effect hc h (fun _ => listenerCommandOn_pin.2) fun _ hu hp hl =>
      removeMember_effect hc h hu lid hp hl⟩
  | addGlobalListener lid =>
    have h := nc (i := .addGlobalListener lid) fun t => by cases t <;> simp [constructOf]
    exact ⟨_, rfl, globalListener_effect hc h fun hp hl =>
      addMember_effect hc h (fun _ => listenerCommandOn_global.1) lid hp hl⟩
  | removeGlobalListener lid =>
    have h := nc (i := .removeGlobalListener lid) fun t => by cases t <;> simp [constructOf]
    exact ⟨_, rfl, globalListener_effect hc h fun hp hl =>
      removeMember_effect hc h (fun _ => listenerCommandOn_global.2) lid hp hl⟩
  | getPinView n => exact getPinView_effect hc n
  | readReg a => exact readReg_effect hc a
  | constructNone => exact construct_effect hc .none
  | constructTied => exact construct_effect hc .tied
  | constructBoth => exact construct_effect hc .both
  | constructAOnly => exact construct_effect hc .aOnly
  | constructBOnly => exact construct_effect hc .bOnly
  | busWrite a v => exact ⟨_, rfl, frameStep_effect hc (.inl ⟨a, v, rfl⟩) _ _⟩
  | busRead a => exact ⟨_, rfl, frameStep_effect hc (.inr ⟨a, rfl⟩) _ _⟩

/-- An instruction writes at most one listener set. -/
theorem listenerCommandOn_unique {u u' : SetId} (h : ListenerCommandOn u i) (h' : ListenerCommandOn u' i) : u = u' := by
  cases u with
  | global => obtain ⟨lid, rfl | rfl⟩ := h <;> simp_all [listenerCommandOn_global]
  | pin p =>
    obtain ⟨lid, rfl | rfl⟩ := h <;> simp only [listenerCommandOn_pin] at h' <;> obtain ⟨q, rfl, hq⟩ := h' <;>
      exact congrArg _ (Fin.ext hq.symm)

/-- A stuck context does nothing in its turns (R52). -/
theorem CtxEffect.eq_of_stuck {t : State} (h : CtxEffect c i s t) (hp : s.phase = some .stuck) : t = s := by
  cases h with
  | idle => rfl
  | answer _ _ _ _ hs => exact absurd hp hs
  | _ => simp_all

/-- A listener command does nothing in its turns while its set's lock is HELD (R176). -/
theorem CtxEffect.eq_of_held {t : State} {u : SetId} {j : Nat} (h : CtxEffect c i s t) (hp : s.phase = some .waitLock)
    (hu : ListenerCommandOn u i) (hl : s.lock u = .held j) : t = s := by
  cases h with
  | idle => rfl
  | answer _ _ _ _ _ hw => simp [hw u hp hu] at hl
  | joins u' _ _ hf _ hi => rw [listenerCommandOn_unique hu hi, hf] at hl; cases hl
  | leaves u' _ _ hf hi => rw [listenerCommandOn_unique hu hi, hf] at hl; cases hl
  | _ => simp_all

end ctx

-- ---- passes ----

/-- Pass state `p` stands at set `u`, and goes on to stage `after` when it has released its lock (R215, R216). -/
def Pass.atSet (p : Pass) (u : SetId) (after : Stage) : Prop :=
  (u = .global ∧ p.stage = .dispatchGlobal ∧ after = .dispatchPin) ∨ (u = .pin p.pin ∧ p.stage = .dispatchPin ∧ after = .next)

/-- What one step of pass `j` in state `p` can do. -/
inductive PassEffect (j : Nat) (p : Pass) (s : State) : State → Prop where
  /-- Nothing: it waits for a lock or a DONE, or is stuck. -/
  | idle : PassEffect j p s s
  /-- Its FrameBegin (R213). -/
  | begins (a : Byte) (ha : a = addrIntf p.port ∨ a = addrIntcap p.port) (hb : s.bus = .idle) (hp : p.phase = .ready)
      (hs : p.stage = .readFlag ∨ p.stage = .readCap) :
      PassEffect j p s ((s.framed (.pass j) (readFrame a)).setPass j { p with phase := .frameBegun })
  /-- Its FrameBegin on a busy bus (R52). -/
  | conflict (a : Agent) (f : FrameWord) (hb : s.bus = .busy a f) (hp : p.phase = .ready)
      (hs : p.stage = .readFlag ∨ p.stage = .readCap) :
      PassEffect j p s (s.busConflict.setPass j { p with phase := .stuck })
  /-- The flag byte read (R213). -/
  | flag (r : Byte) (hp : p.phase = .frameBegun) (hs : p.stage = .readFlag) :
      PassEffect j p s (s.frameEnd.setPass j { p with f := r, stage := .readCap, phase := .ready })
  /-- The capture byte read (R213). -/
  | capture (r : Byte) (hp : p.phase = .frameBegun) (hs : p.stage = .readCap) :
      PassEffect j p s (s.frameEnd.setPass j { p with cap := r, stage := .scan, phase := .ready })
  /-- A read that fails (R223). -/
  | fails (hp : p.phase = .frameBegun) : PassEffect j p s s.frameEnd.routerFatal
  /-- The scan (R214, R217). -/
  | scans (hp : p.phase = .ready) (hs : p.stage = .scan) : PassEffect j p s (s.setPass j p.scan)
  /-- It takes the lock of its set (R215). -/
  | takes (u : SetId) (after : Stage) (hu : p.atSet u after) (hp : p.phase = .ready) (hl : s.lock u = .free) :
      PassEffect j p s ((s.setLock u (.held j)).setPass j { p with rem := s.members u, phase := .iterating })
  /-- It dispatches to a listener that remains (R215, R219). -/
  | dispatches (u : SetId) (after : Stage) (hu : p.atSet u after) (hp : p.phase = .iterating) (lid : Lid) (hm : lid ∈ p.rem) :
      PassEffect j p s
        { s.setPass j { p with phase := .awaitDone lid } with
          listeners := Sparse.write s.listeners j none, trace := s.trace ++ [.dispatch j lid p.v p.pin] }
  /-- It releases the lock of its set (R215). -/
  | releases (u : SetId) (after : Stage) (hu : p.atSet u after) (hp : p.phase = .iterating) (hr : p.rem = []) :
      PassEffect j p s ((s.setLock u .free).setPass j { p with stage := after, phase := .ready })
  /-- It goes on to its next port (R212). -/
  | nextPort (P : Port) (queue : List Port) (hq : p.queue = P :: queue) (hp : p.phase = .ready) (hs : p.stage = .next) :
      PassEffect j p s (s.setPass j { p with port := P, queue := queue, stage := .readFlag, phase := .ready })
  /-- It ends (R225). -/
  | ends (hq : p.queue = []) (hp : p.phase = .ready) (hs : p.stage = .next) : PassEffect j p s (s.endPass j)

section pass

variable {s : State} {j : Nat} {p : Pass}

/-- The listener that a draw picks is one of those that remain (R220). -/
theorem pickListener_mem (k : Nat) {rem : List Lid} (h : rem ≠ []) : pickListener k rem ∈ rem := by
  have hl : 0 < rem.length := List.length_pos_of_ne_nil h
  rw [pickListener, List.getD_eq_getElem _ _ (Nat.mod_lt _ hl)]
  exact List.getElem_mem _

/-- Everything the frame of a pass can do in a step of the pass. -/
theorem exec_pass_effect (hc : s.cur = .pass j) (hr : Sparse.read s.passes j = some p) {i : Instr}
    (hi : p.frame = some i) : ∃ t, exec i s = .next t ∧ PassEffect j p s t := by
  obtain ⟨a, rfl, ha, hs⟩ : ∃ a, i = .busRead a ∧ (a = addrIntf p.port ∨ a = addrIntcap p.port) ∧
      (p.stage = .readFlag ∨ p.stage = .readCap) := by
    simp only [Pass.frame] at hi
    split at hi <;> simp only [Option.some.injEq, reduceCtorEq] at hi
    · next hs => exact ⟨_, hi.symm, .inl rfl, .inl hs⟩
    · next hs => exact ⟨_, hi.symm, .inr rfl, .inr hs⟩
  refine ⟨_, rfl, ?_⟩
  have hf : p.stage.sendsFrame = true := by rcases hs with h | h <;> rw [h] <;> rfl
  simp only [frameStep, hc, hr, hf, if_true]
  split
  · next hp =>
    cases hb : s.bus with
    | idle => rw [State.frameBegin_idle hb, hc]; exact .begins a ha hb hp hs
    | busy b f => rw [State.frameBegin_busy hb]; exact .conflict b f hb hp hs
  · next hp =>
    split
    · next r0 r1 r2 _ =>
      rcases hs with h | h <;> simp only [Pass.afterFrame, h]
      · exact .flag r2 hp h
      · exact .capture r2 hp h
    · exact .fails hp
  · exact .idle

/-- Everything another step of a pass can do. -/
theorem routerStep_effect : PassEffect j p s (routerStep j p s) := by
  have disp : ∀ (u : SetId) (after : Stage), p.atSet u after → PassEffect j p s (s.dispatchStep j p u after) := by
    intro u after hu
    simp only [State.dispatchStep]
    split
    · next hp =>
      split
      · next hl => exact .takes u after hu hp hl
      · exact .idle
    · next hp =>
      split
      · next he => exact .releases u after hu hp (by simpa using he)
      · next he => exact .dispatches u after hu hp _ (pickListener_mem _ (by simpa using he))
    · exact .idle
  simp only [routerStep]
  split
  · next hs hp => exact .scans hp hs
  · next hs => exact disp _ _ (.inl ⟨rfl, hs, rfl⟩)
  · next hs => exact disp _ _ (.inr ⟨rfl, hs, rfl⟩)
  · next hs hp =>
    simp only [State.nextPort]
    split
    · next hq => exact .ends hq hp hs
    · next P queue hq => exact .nextPort P queue hq hp hs
  · exact .idle

end pass

-- ---- a step of the machine ----

/-- Everything a step can do. -/
inductive StepEffect (s : State) : State → Prop where
  /-- No event comes. -/
  | quiet (h : s.env = []) : StepEffect s s
  /-- The event is taken and has no other effect: it is for no agent that is there, or is lost (R36, R211, R219). -/
  | dropped (e : EnvEvent) (rest : List EnvEvent) (h : s.env = e :: rest) (he : ∀ l, e ≠ .reset l) :
      StepEffect s { s with env := rest }
  /-- The turn of an agent that has nothing to do. -/
  | noTurn (a : Agent) (d : Draw) (rest : List EnvEvent) (h : TurnComes s a d rest) : StepEffect s (s.given a d rest)
  /-- A context takes a command (R36). -/
  | command (c : Ctx) (w : CmdWord) (rest : List EnvEvent) (h : s.env = .command c w :: rest) (ha : s.accepts c = true) :
      StepEffect s ({ s with env := rest }.setJob c { code := .cmd w, phase := .decode })
  /-- A step of a context's instruction. -/
  | run (c : Ctx) (d : Draw) (rest : List EnvEvent) (job : Job) (i : Instr) (t : State) (h : TurnComes s (.ctx c) d rest)
      (hj : s.job c = some job) (hi : decodeCode job.code = .ok i) (ht : CtxEffect c i (s.given (.ctx c) d rest) t) :
      StepEffect s t
  /-- A word that is no command is answered (R77, R246). -/
  | illegal (c : Ctx) (d : Draw) (rest : List EnvEvent) (job : Job) (w : CmdWord) (r : Reject)
      (h : TurnComes s (.ctx c) d rest) (hj : s.job c = some job) (hw : job.code = .cmd w) (hr : decode w = .reject r)
      (st : Byte) (hst : st = if s.lc = .fatal then 0x04 else 0x05) :
      StepEffect s ((s.given (.ctx c) d rest).answered c st 0)
  /-- A step of a pass. -/
  | pass (j : Nat) (d : Draw) (rest : List EnvEvent) (p : Pass) (t : State) (h : TurnComes s (.pass j) d rest)
      (hp : Sparse.read s.passes j = some p) (ht : PassEffect j p (s.given (.pass j) d rest) t) : StepEffect s t
  /-- An edge starts a pass (R211). -/
  | edge (x : IrqLine) (rest : List EnvEvent) (P : Port) (queue : List Port) (h : s.env = .edge x :: rest)
      (hl : s.lc = .ready) : StepEffect s ({ s with env := rest }.spawn P queue)
  /-- A DONE with its pass in flight (R219). -/
  | done (j : Nat) (rest : List EnvEvent) (p : Pass) (h : s.env = .done j :: rest) (hl : Sparse.read s.listeners j = some none)
      (hp : Sparse.read s.passes j = some p) :
      StepEffect s { s with
        env := rest, listeners := Sparse.clear s.listeners j, passes := Sparse.write s.passes j p.afterDone }
  /-- A DONE whose pass has ended (R223). -/
  | doneLate (j : Nat) (rest : List EnvEvent) (h : s.env = .done j :: rest) (hl : Sparse.read s.listeners j = some none)
      (hp : Sparse.read s.passes j = none) :
      StepEffect s { s with env := rest, listeners := Sparse.clear s.listeners j }
  /-- A reset of the block (R270). -/
  | reset (landed : Bool) (rest : List EnvEvent) (h : s.env = .reset landed :: rest) :
      StepEffect s (blockReset landed { s with env := rest })

/-- Everything a step can do. -/
theorem step_effect {s t : State} (ht : step s = .next t) : StepEffect s t := by
  simp only [step] at ht
  cases he : s.env with
  | nil => simp only [he, Host.Outcome.next.injEq] at ht; exact ht ▸ .quiet he
  | cons e rest =>
    simp only [he] at ht
    cases e with
    | command c w =>
      replace ht : Host.Outcome.next (onCommand c w { s with env := rest }) = .next t := ht
      simp only [Host.Outcome.next.injEq, onCommand] at ht
      subst ht
      by_cases ha : ({ s with env := rest } : State).accepts c = true
      · rw [if_pos ha]; exact .command c w rest he ha
      · rw [if_neg ha]; exact .dropped _ rest he (by simp)
    | turn a d =>
      have hl : s.load (.turn a d) rest = s.given a d rest := rfl
      simp only [runEvent, hl] at ht
      cases a with
      | ctx c =>
        simp only [takeTurn, State.job_given] at ht
        split at ht
        · simp only [Host.Outcome.next.injEq] at ht; exact ht ▸ .noTurn _ d rest he
        · next job hjob =>
          simp only [runJob] at ht
          split at ht
          · next _ i hi =>
            obtain ⟨t', ht', hf⟩ := exec_ctx_effect (s := s.given (.ctx c) d rest) (c := c) rfl i
            rw [ht', Host.Outcome.next.injEq] at ht
            exact .run c d rest job i t he hjob hi (ht ▸ hf)
          · next r w hr hw =>
            simp only [Host.Outcome.next.injEq] at ht
            subst ht
            rw [State.illegalCommand, State.raise_ctx (c := c) rfl]
            refine .illegal c d rest job w r he hjob hw (by simpa [decodeCode, hw] using hr) _ ?_
            have : (s.given (.ctx c) d rest).lc = s.lc := rfl
            rw [this]
            split <;> rfl
          · cases ht
      | pass j =>
        have hp : (s.given (.pass j) d rest).passes = s.passes := rfl
        simp only [takeTurn, hp] at ht
        split at ht
        · simp only [Host.Outcome.next.injEq] at ht; exact ht ▸ .noTurn _ d rest he
        · next p hr =>
          split at ht
          · next i hi =>
            obtain ⟨t', ht', hf⟩ := exec_pass_effect (s := s.given (.pass j) d rest) (j := j) rfl hr hi
            rw [ht', Host.Outcome.next.injEq] at ht
            exact .pass j d rest p t he hr (ht ▸ hf)
          · simp only [Host.Outcome.next.injEq] at ht
            exact .pass j d rest p t he hr (ht ▸ routerStep_effect)
    | edge x =>
      replace ht : Host.Outcome.next (onEdge x { s with env := rest }) = .next t := ht
      simp only [Host.Outcome.next.injEq, onEdge] at ht
      subst ht
      split
      · next hl =>
        split
        · next P queue _ =>
          by_cases hm : ({ s with env := rest } : State).edgeMayCome = true
          · rw [if_pos hm]; exact .edge x rest P queue he hl
          · rw [if_neg hm]; exact .dropped _ rest he (by simp)
        · exact .dropped _ rest he (by simp)
      · exact .dropped _ rest he (by simp)
    | done j =>
      simp only [runEvent, State.load, Host.Outcome.next.injEq, onDone] at ht
      subst ht
      split
      · next hl =>
        split
        · next p hp => exact .done j rest p he hl hp
        · next hp => exact .doneLate j rest he hl hp
      · exact .dropped _ rest he (by simp)
    | reset l =>
      simp only [runEvent, State.load, Host.Outcome.next.injEq] at ht
      subst ht
      exact .reset l rest he

end Sys2Proof.Machine
end

