-- ==== Sys2Proof/Laws/PerInstr.lean ====
section
/-! SUPPORT. Facts stated for each instruction: the family `OpcodeField`, one lemma per constructor of `Instr`. -/

namespace Sys2Proof.Laws

/-- The OP field of a command's bits, or the first byte of a frame's. -/
def firstByte (c : Code) : Byte :=
  match c with
  | .cmd w => opField w
  | .frame f => frameByte0 f

/-- The OP value that the opcode map gives each command, and the first byte of each frame (R76, R82). -/
def opcodeOf (i : Instr) : Byte :=
  match i with
  | .getDir _ => 0x10
  | .getIpol _ => 0x11
  | .getInten _ => 0x12
  | .getDefval _ => 0x13
  | .getIntcon _ => 0x14
  | .getPu _ => 0x15
  | .get _ => 0x16
  | .setDir _ _ => 0x20
  | .setIpol _ _ => 0x21
  | .setInten _ _ => 0x22
  | .setDefval _ _ => 0x23
  | .setIntcon _ _ => 0x24
  | .setPu _ _ => 0x25
  | .setOut _ _ => 0x26
  | .commitIodirA => 0x30
  | .commitIpolA => 0x31
  | .commitGpintenA => 0x32
  | .commitDefvalA => 0x33
  | .commitIntconA => 0x34
  | .commitGppuA => 0x35
  | .commitOlatA => 0x36
  | .commitIodirB => 0x38
  | .commitIpolB => 0x39
  | .commitGpintenB => 0x3A
  | .commitDefvalB => 0x3B
  | .commitIntconB => 0x3C
  | .commitGppuB => 0x3D
  | .commitOlatB => 0x3E
  | .addPinListener _ _ => 0x40
  | .removePinListener _ _ => 0x41
  | .addGlobalListener _ => 0x42
  | .removeGlobalListener _ => 0x43
  | .getPinView _ => 0x44
  | .readReg _ => 0x50
  | .constructNone => 0x60
  | .constructTied => 0x61
  | .constructBoth => 0x62
  | .constructAOnly => 0x63
  | .constructBOnly => 0x64
  | .busWrite _ _ => 0x40
  | .busRead _ => 0x41

/-- The bits of the instruction begin with its opcode (R76, R82). -/
def OpcodeField.Statement (i : Instr) : Prop := firstByte (encode i) = opcodeOf i

theorem OpcodeField.getDir (n : Nat) : OpcodeField.Statement (.getDir n) :=
  opField_cmdWord _ _ _
theorem OpcodeField.getIpol (n : Nat) : OpcodeField.Statement (.getIpol n) :=
  opField_cmdWord _ _ _
theorem OpcodeField.getInten (n : Nat) : OpcodeField.Statement (.getInten n) :=
  opField_cmdWord _ _ _
theorem OpcodeField.getDefval (n : Nat) : OpcodeField.Statement (.getDefval n) :=
  opField_cmdWord _ _ _
theorem OpcodeField.getIntcon (n : Nat) : OpcodeField.Statement (.getIntcon n) :=
  opField_cmdWord _ _ _
theorem OpcodeField.getPu (n : Nat) : OpcodeField.Statement (.getPu n) :=
  opField_cmdWord _ _ _
theorem OpcodeField.get (n : Nat) : OpcodeField.Statement (.get n) :=
  opField_cmdWord _ _ _
theorem OpcodeField.setDir (n : Nat) (v : Bool) : OpcodeField.Statement (.setDir n v) :=
  opField_cmdWord _ _ _
theorem OpcodeField.setIpol (n : Nat) (v : Bool) : OpcodeField.Statement (.setIpol n v) :=
  opField_cmdWord _ _ _
theorem OpcodeField.setInten (n : Nat) (v : Bool) : OpcodeField.Statement (.setInten n v) :=
  opField_cmdWord _ _ _
theorem OpcodeField.setDefval (n : Nat) (v : Bool) : OpcodeField.Statement (.setDefval n v) :=
  opField_cmdWord _ _ _
theorem OpcodeField.setIntcon (n : Nat) (v : Bool) : OpcodeField.Statement (.setIntcon n v) :=
  opField_cmdWord _ _ _
theorem OpcodeField.setPu (n : Nat) (v : Bool) : OpcodeField.Statement (.setPu n v) :=
  opField_cmdWord _ _ _
theorem OpcodeField.setOut (n : Nat) (v : Bool) : OpcodeField.Statement (.setOut n v) :=
  opField_cmdWord _ _ _
theorem OpcodeField.commitIodirA : OpcodeField.Statement (.commitIodirA) :=
  opField_cmdWord _ _ _
theorem OpcodeField.commitIpolA : OpcodeField.Statement (.commitIpolA) :=
  opField_cmdWord _ _ _
theorem OpcodeField.commitGpintenA : OpcodeField.Statement (.commitGpintenA) :=
  opField_cmdWord _ _ _
theorem OpcodeField.commitDefvalA : OpcodeField.Statement (.commitDefvalA) :=
  opField_cmdWord _ _ _
theorem OpcodeField.commitIntconA : OpcodeField.Statement (.commitIntconA) :=
  opField_cmdWord _ _ _
theorem OpcodeField.commitGppuA : OpcodeField.Statement (.commitGppuA) :=
  opField_cmdWord _ _ _
theorem OpcodeField.commitOlatA : OpcodeField.Statement (.commitOlatA) :=
  opField_cmdWord _ _ _
theorem OpcodeField.commitIodirB : OpcodeField.Statement (.commitIodirB) :=
  opField_cmdWord _ _ _
theorem OpcodeField.commitIpolB : OpcodeField.Statement (.commitIpolB) :=
  opField_cmdWord _ _ _
theorem OpcodeField.commitGpintenB : OpcodeField.Statement (.commitGpintenB) :=
  opField_cmdWord _ _ _
theorem OpcodeField.commitDefvalB : OpcodeField.Statement (.commitDefvalB) :=
  opField_cmdWord _ _ _
theorem OpcodeField.commitIntconB : OpcodeField.Statement (.commitIntconB) :=
  opField_cmdWord _ _ _
theorem OpcodeField.commitGppuB : OpcodeField.Statement (.commitGppuB) :=
  opField_cmdWord _ _ _
theorem OpcodeField.commitOlatB : OpcodeField.Statement (.commitOlatB) :=
  opField_cmdWord _ _ _
theorem OpcodeField.addPinListener (n : Nat) (lid : Lid) : OpcodeField.Statement (.addPinListener n lid) :=
  opField_cmdWord _ _ _
theorem OpcodeField.removePinListener (n : Nat) (lid : Lid) : OpcodeField.Statement (.removePinListener n lid) :=
  opField_cmdWord _ _ _
theorem OpcodeField.addGlobalListener (lid : Lid) : OpcodeField.Statement (.addGlobalListener lid) :=
  opField_cmdWord _ _ _
theorem OpcodeField.removeGlobalListener (lid : Lid) : OpcodeField.Statement (.removeGlobalListener lid) :=
  opField_cmdWord _ _ _
theorem OpcodeField.getPinView (n : Nat) : OpcodeField.Statement (.getPinView n) :=
  opField_cmdWord _ _ _
theorem OpcodeField.readReg (addr : Byte) : OpcodeField.Statement (.readReg addr) :=
  opField_cmdWord _ _ _
theorem OpcodeField.constructNone : OpcodeField.Statement (.constructNone) :=
  opField_cmdWord _ _ _
theorem OpcodeField.constructTied : OpcodeField.Statement (.constructTied) :=
  opField_cmdWord _ _ _
theorem OpcodeField.constructBoth : OpcodeField.Statement (.constructBoth) :=
  opField_cmdWord _ _ _
theorem OpcodeField.constructAOnly : OpcodeField.Statement (.constructAOnly) :=
  opField_cmdWord _ _ _
theorem OpcodeField.constructBOnly : OpcodeField.Statement (.constructBOnly) :=
  opField_cmdWord _ _ _
theorem OpcodeField.busWrite (addr : Byte) (value : Byte) : OpcodeField.Statement (.busWrite addr value) :=
  frameByte0_writeFrame addr value
theorem OpcodeField.busRead (addr : Byte) : OpcodeField.Statement (.busRead addr) :=
  frameByte0_readFrame addr

end Sys2Proof.Laws
end

