-- ==== Sys2Proof/Tests/Slice0.lean ====
section
/-! SUPPORT. The model's own tests: ill-formed terms refused, words of the spec's encodings decoded, one-step tests of the
instructions with the values of spec/95_test_vectors.md, and for each statement with hypotheses a state that meets them. -/

namespace Sys2Proof.Tests

open Sys2Proof.Machine

-- ==== helpers ====

/-- The next state of a step, if it has one. -/
def after (o : Host.Outcome State Fault Refusal) : Option State :=
  match o with
  | .next s => some s
  | .fault _ => none
  | .refused _ => none

/-- What the next state of a step has put out. -/
def outputs (o : Host.Outcome State Fault Refusal) : Option (List Output) := (after o).map (·.trace)

/-- HOST[0]. -/
def h0 : Ctx := .host 0

/-- A block constructed in topology BOTH. -/
def ready : State := { State.reset with lc := .ready, topo := .both, csN := .high }

/-- HOST[0] has the step and is BUSY with `i` in phase `ph`, and its turn comes next. -/
def atPhase (s : State) (i : Instr) (ph : Phase) : State :=
  { s with hosts := [(0, { code := encode i, phase := ph })], cur := .ctx h0, env := [.turn (.ctx h0) s.draw] }

/-- As `atPhase`, with the frame `f` begun by HOST[0] and the outcome `o` drawn for it. -/
def inFrame (s : State) (i : Instr) (f : FrameWord) (o : FrameOutcome) : State :=
  atPhase { s with bus := .busy (.ctx h0) f, csN := .low, draw := { Draw.unused with frame := o } } i .frameBegun

/-- Pass 0 in state `q` has the step, and its turn comes next. -/
def withPass (s : State) (q : Pass) : State :=
  { s with passes := [(0, q)], nextPass := 1, cur := .pass 0, env := [.turn (.pass 0) s.draw] }

/-- A block with the word `w` presented by HOST[0], whose turn comes next. -/
def shown (s : State) (w : CmdWord) : State :=
  { s with hosts := [(0, { code := .cmd w, phase := .decode })], env := [.turn (.ctx h0) Draw.unused] }

/-- A shadow file of zeros. -/
def zeros : Shadow := ⟨⟨0, 0⟩, ⟨0, 0⟩, ⟨0, 0⟩, ⟨0, 0⟩, ⟨0, 0⟩, ⟨0, 0⟩, ⟨0, 0⟩⟩

/-- The response word that one step gives a command word. -/
def answer (lc : Lifecycle) (w : CmdWord) : Option (List Output) :=
  outputs (step (shown { ready with lc := lc } w))

-- ==== well-formedness (R73, R80): a pin operand out of its field's range is refused, the largest in range accepted ====

theorem test_wf_getDir : (Instr.getDir 256).wellFormed = false ∧ (Instr.getDir 255).wellFormed = true := by decide
theorem test_wf_getIpol : (Instr.getIpol 256).wellFormed = false ∧ (Instr.getIpol 255).wellFormed = true := by decide
theorem test_wf_getInten : (Instr.getInten 256).wellFormed = false ∧ (Instr.getInten 255).wellFormed = true := by decide
theorem test_wf_getDefval : (Instr.getDefval 256).wellFormed = false ∧ (Instr.getDefval 255).wellFormed = true := by decide
theorem test_wf_getIntcon : (Instr.getIntcon 256).wellFormed = false ∧ (Instr.getIntcon 255).wellFormed = true := by decide
theorem test_wf_getPu : (Instr.getPu 256).wellFormed = false ∧ (Instr.getPu 255).wellFormed = true := by decide
theorem test_wf_get : (Instr.get 256).wellFormed = false ∧ (Instr.get 255).wellFormed = true := by decide
theorem test_wf_getPinView : (Instr.getPinView 256).wellFormed = false ∧ (Instr.getPinView 255).wellFormed = true := by decide
theorem test_wf_setDir : (Instr.setDir 256 true).wellFormed = false ∧ (Instr.setDir 255 true).wellFormed = true := by decide
theorem test_wf_setIpol : (Instr.setIpol 256 true).wellFormed = false ∧ (Instr.setIpol 255 true).wellFormed = true := by decide
theorem test_wf_setInten : (Instr.setInten 256 true).wellFormed = false ∧ (Instr.setInten 255 true).wellFormed = true := by decide
theorem test_wf_setDefval : (Instr.setDefval 256 true).wellFormed = false ∧ (Instr.setDefval 255 true).wellFormed = true := by decide
theorem test_wf_setIntcon : (Instr.setIntcon 256 true).wellFormed = false ∧ (Instr.setIntcon 255 true).wellFormed = true := by decide
theorem test_wf_setPu : (Instr.setPu 256 true).wellFormed = false ∧ (Instr.setPu 255 true).wellFormed = true := by decide
theorem test_wf_setOut : (Instr.setOut 256 true).wellFormed = false ∧ (Instr.setOut 255 true).wellFormed = true := by decide
theorem test_wf_addPinListener : (Instr.addPinListener 256 1).wellFormed = false ∧ (Instr.addPinListener 255 1).wellFormed = true := by decide
theorem test_wf_removePinListener : (Instr.removePinListener 256 1).wellFormed = false ∧ (Instr.removePinListener 255 1).wellFormed = true := by decide

-- ==== decoding: OP, A, D written bit by bit from R70, R74 to R76; frames from R44, R45, R82 ====

theorem test_decode_getDir : decode 0b00010000000011000000000000000000 = .ok (.getDir 12) := by decide
theorem test_decode_getIpol : decode 0b00010001000011000000000000000000 = .ok (.getIpol 12) := by decide
theorem test_decode_getInten : decode 0b00010010000011000000000000000000 = .ok (.getInten 12) := by decide
theorem test_decode_getDefval : decode 0b00010011000011000000000000000000 = .ok (.getDefval 12) := by decide
theorem test_decode_getIntcon : decode 0b00010100000011000000000000000000 = .ok (.getIntcon 12) := by decide
theorem test_decode_getPu : decode 0b00010101000011000000000000000000 = .ok (.getPu 12) := by decide
theorem test_decode_get : decode 0b00010110000001010000000000000000 = .ok (.get 5) := by decide
theorem test_decode_setDir : decode 0b00100000000010100000000000000000 = .ok (.setDir 10 false) := by decide
theorem test_decode_setIpol : decode 0b00100001000010100000000000000001 = .ok (.setIpol 10 true) := by decide
theorem test_decode_setInten : decode 0b00100010000010100000000000000000 = .ok (.setInten 10 false) := by decide
theorem test_decode_setDefval : decode 0b00100011000010100000000000000001 = .ok (.setDefval 10 true) := by decide
theorem test_decode_setIntcon : decode 0b00100100000010100000000000000000 = .ok (.setIntcon 10 false) := by decide
theorem test_decode_setPu : decode 0b00100101000010100000000000000001 = .ok (.setPu 10 true) := by decide
theorem test_decode_setOut : decode 0b00100110000010100000000000000000 = .ok (.setOut 10 false) := by decide
theorem test_decode_commitIodirA : decode 0b00110000000000000000000000000000 = .ok .commitIodirA := by decide
theorem test_decode_commitIpolA : decode 0b00110001000000000000000000000000 = .ok .commitIpolA := by decide
theorem test_decode_commitGpintenA : decode 0b00110010000000000000000000000000 = .ok .commitGpintenA := by decide
theorem test_decode_commitDefvalA : decode 0b00110011000000000000000000000000 = .ok .commitDefvalA := by decide
theorem test_decode_commitIntconA : decode 0b00110100000000000000000000000000 = .ok .commitIntconA := by decide
theorem test_decode_commitGppuA : decode 0b00110101000000000000000000000000 = .ok .commitGppuA := by decide
theorem test_decode_commitOlatA : decode 0b00110110000000000000000000000000 = .ok .commitOlatA := by decide
theorem test_decode_commitIodirB : decode 0b00111000000000000000000000000000 = .ok .commitIodirB := by decide
theorem test_decode_commitIpolB : decode 0b00111001000000000000000000000000 = .ok .commitIpolB := by decide
theorem test_decode_commitGpintenB : decode 0b00111010000000000000000000000000 = .ok .commitGpintenB := by decide
theorem test_decode_commitDefvalB : decode 0b00111011000000000000000000000000 = .ok .commitDefvalB := by decide
theorem test_decode_commitIntconB : decode 0b00111100000000000000000000000000 = .ok .commitIntconB := by decide
theorem test_decode_commitGppuB : decode 0b00111101000000000000000000000000 = .ok .commitGppuB := by decide
theorem test_decode_commitOlatB : decode 0b00111110000000000000000000000000 = .ok .commitOlatB := by decide
theorem test_decode_addPinListener : decode 0b01000000000010101000000000000010 = .ok (.addPinListener 10 0x8002) := by decide
theorem test_decode_removePinListener : decode 0b01000001000010101000000000000010 = .ok (.removePinListener 10 0x8002) := by decide
theorem test_decode_addGlobalListener : decode 0b01000010000000001111111111111111 = .ok (.addGlobalListener 0xFFFF) := by decide
theorem test_decode_removeGlobalListener : decode 0b01000011000000000000000000000010 = .ok (.removeGlobalListener 2) := by decide
theorem test_decode_getPinView : decode 0b01000100000010010000000000000000 = .ok (.getPinView 9) := by decide
theorem test_decode_readReg : decode 0b01010000000100100000000000000000 = .ok (.readReg 0x12) := by decide
theorem test_decode_constructNone : decode 0b01100000000000000000000000000000 = .ok .constructNone := by decide
theorem test_decode_constructTied : decode 0b01100001000000000000000000000000 = .ok .constructTied := by decide
theorem test_decode_constructBoth : decode 0b01100010000000000000000000000000 = .ok .constructBoth := by decide
theorem test_decode_constructAOnly : decode 0b01100011000000000000000000000000 = .ok .constructAOnly := by decide
theorem test_decode_constructBOnly : decode 0b01100100000000000000000000000000 = .ok .constructBOnly := by decide
theorem test_decode_busWrite : decodeFrame 0b010000000000101001000000 = .ok (.busWrite 0x0A 0x40) := by decide
theorem test_decode_busRead : decodeFrame 0b010000010000111000000000 = .ok (.busRead 0x0E) := by decide

/-- Words that are no command, with the reason: the rows of section 2.1 of the test vectors. -/
theorem test_decode_rejects :
    decode 0x00000000 = .reject .unassignedOp ∧ decode 0x17000000 = .reject .unassignedOp ∧
    decode 0x27050001 = .reject .unassignedOp ∧ decode 0x37000000 = .reject .unassignedOp ∧
    decode 0x3F000000 = .reject .unassignedOp ∧ decode 0x45000000 = .reject .unassignedOp ∧
    decode 0x51000000 = .reject .unassignedOp ∧ decode 0x65000000 = .reject .unassignedOp ∧
    decode 0x10000001 = .reject .fieldDNonZero ∧ decode 0x20000002 = .reject .fieldDNonZero ∧
    decode 0x20008001 = .reject .fieldDNonZero ∧ decode 0x30010000 = .reject .fieldANonZero ∧
    decode 0x30000001 = .reject .fieldDNonZero ∧ decode 0x42010001 = .reject .fieldANonZero ∧
    decode 0x44000100 = .reject .fieldDNonZero ∧ decode 0x50120001 = .reject .fieldDNonZero := by decide

/-- R82: no other first byte, and no other filler, is a frame. -/
theorem test_decodeFrame_rejects :
    decodeFrame 0x420A40 = .reject .unknownFrame ∧ decodeFrame 0x410E01 = .reject .fillerWrong := by decide

/-- The host's two questions, on a row of 32 bits and one of 24. -/
theorem test_tableWords :
    decodeTableWord 32 0x200A0001 = some (.setDir 10 true) ∧ decodeTableWord 24 0x400A40 = some (.busWrite 0x0A 0x40) ∧
    step (State.reset.withFetchWord 32 0x61000000) =
      .next { State.reset with
        hosts := [(0, { code := .cmd 0x61000000, phase := .bringUp })], lc := .constructing } := ⟨by decide, by decide, rfl⟩

-- ==== precedence of errors (R246; section 2.1 of the test vectors) ====

theorem test_illegal_before_already : answer .ready 0x60000001 = some [.response h0 0x05000000] := by decide
theorem test_already : answer .ready 0x60000000 = some [.response h0 0x07000000] := by decide
theorem test_pin_before_argument : answer .ready 0x40100000 = some [.response h0 0x01000000] := by decide
theorem test_notConstructed_before_pin : answer .unconstructed 0x10100000 = some [.response h0 0x06000000] := by decide
theorem test_illegal_before_notConstructed : answer .unconstructed 0x17000000 = some [.response h0 0x05000000] := by decide
theorem test_constructing : answer .constructing 0x10000000 = some [.response h0 0x06000000] := by decide
theorem test_second_construction : answer .constructing 0x62000000 = some [.response h0 0x07000000] := by decide
theorem test_fatal_before_illegal : answer .fatal 0x17000000 = some [.response h0 0x04000000] := by decide
theorem test_fatal_before_already : answer .fatal 0x60000000 = some [.response h0 0x04000000] := by decide

-- ==== getters (sections 2.3 and S3, S4 of the test vectors): the right half of the right concern ====

theorem test_getDir_one : outputs (exec (.getDir 15) (atPhase { ready with sr := zeros.set .iodir .B 0x80 } (.getDir 15) .decode)) =
    some [.response h0 0x00000001] := by decide
theorem test_getIpol_one : outputs (exec (.getIpol 15) (atPhase { ready with sr := zeros.set .ipol .B 0x80 } (.getIpol 15) .decode)) =
    some [.response h0 0x00000001] := by decide
theorem test_getInten_one : outputs (exec (.getInten 15) (atPhase { ready with sr := zeros.set .gpinten .B 0x80 } (.getInten 15) .decode)) =
    some [.response h0 0x00000001] := by decide
theorem test_getDefval_one : outputs (exec (.getDefval 15) (atPhase { ready with sr := zeros.set .defval .B 0x80 } (.getDefval 15) .decode)) =
    some [.response h0 0x00000001] := by decide
theorem test_getIntcon_one : outputs (exec (.getIntcon 15) (atPhase { ready with sr := zeros.set .intcon .B 0x80 } (.getIntcon 15) .decode)) =
    some [.response h0 0x00000001] := by decide
theorem test_getPu_one : outputs (exec (.getPu 15) (atPhase { ready with sr := zeros.set .gppu .B 0x80 } (.getPu 15) .decode)) =
    some [.response h0 0x00000001] := by decide
theorem test_getIpol_other_half : outputs (exec (.getIpol 7) (atPhase { ready with sr := zeros.set .ipol .B 0x80 } (.getIpol 7) .decode)) =
    some [.response h0 0x00000000] := by decide
theorem test_get_output : outputs (exec (.get 6) (atPhase { ready with sr := zeros.set .olat .A 0x40 } (.get 6) .decode)) =
    some [.response h0 0x00000001] := by decide
theorem test_get_input_ends : outputs (exec (.get 12) (inFrame ready (.get 12) 0x411300 (.ok 0 0 0x10))) =
    some [.response h0 0x00000001] := by decide
theorem test_get_input_begins : outputs (exec (.get 12) (atPhase ready (.get 12) .frameReady)) =
    some [.frame (.ctx h0) 0x411300] := by decide
theorem test_getPinView : outputs (exec (.getPinView 15) (atPhase ready (.getPinView 15) .decode)) =
    some [.response h0 0x0000000F] := by decide
theorem test_getPinView_16 : outputs (exec (.getPinView 16) (atPhase ready (.getPinView 16) .decode)) =
    some [.response h0 0x01000000] := by decide

-- ==== setters (section 2.4 of the test vectors, and S2): one bit of one half of one concern ====

theorem test_setDir_writes : (after (exec (.setDir 15 false) (atPhase ready (.setDir 15 false) (.setterRead 0xFF)))).map (·.sr) =
    some (Shadow.reset.set .iodir .B 0x7F) := by decide
theorem test_setIpol_writes : (after (exec (.setIpol 7 true) (atPhase ready (.setIpol 7 true) (.setterRead 0x00)))).map (·.sr) =
    some (Shadow.reset.set .ipol .A 0x80) := by decide
theorem test_setInten_writes : (after (exec (.setInten 0 true) (atPhase ready (.setInten 0 true) (.setterRead 0x00)))).map (·.sr) =
    some (Shadow.reset.set .gpinten .A 0x01) := by decide
theorem test_setDefval_writes : (after (exec (.setDefval 14 true) (atPhase ready (.setDefval 14 true) (.setterRead 0x00)))).map (·.sr) =
    some (Shadow.reset.set .defval .B 0x40) := by decide
theorem test_setIntcon_writes : (after (exec (.setIntcon 8 true) (atPhase ready (.setIntcon 8 true) (.setterRead 0x00)))).map (·.sr) =
    some (Shadow.reset.set .intcon .B 0x01) := by decide
theorem test_setPu_writes : (after (exec (.setPu 4 true) (atPhase ready (.setPu 4 true) (.setterRead 0x00)))).map (·.sr) =
    some (Shadow.reset.set .gppu .A 0x10) := by decide
theorem test_setOut_writes : (after (exec (.setOut 12 false) (atPhase ready (.setOut 12 false) (.setterRead 0xFF)))).map (·.sr) =
    some (Shadow.reset.set .olat .B 0xEF) := by decide
theorem test_setDir_reads : (after (exec (.setDir 9 false) (atPhase ready (.setDir 9 false) .decode))).map (·.hosts) =
    some [(0, { code := encode (.setDir 9 false), phase := .setterRead 0xFF })] := by decide
theorem test_setBit_laws : setBit 10 0xA5 false = 0xA1 ∧ setBit 10 0xA5 true = 0xA5 ∧ setBit 13 0x00 true = 0x20 ∧
    setBit 7 0x80 false = 0x00 := by decide

-- ==== commits (section 2.5 of the test vectors): the frame that each sends ====

theorem test_commitIodirA : outputs (exec .commitIodirA (atPhase { ready with sr := zeros.set .iodir .A 0x5A } .commitIodirA .decode)) =
    some [.frame (.ctx h0) 0x40005A] := by decide
theorem test_commitIpolA : outputs (exec .commitIpolA (atPhase { ready with sr := zeros.set .ipol .A 0x5A } .commitIpolA .decode)) =
    some [.frame (.ctx h0) 0x40025A] := by decide
theorem test_commitGpintenA : outputs (exec .commitGpintenA (atPhase { ready with sr := zeros.set .gpinten .A 0x5A } .commitGpintenA .decode)) =
    some [.frame (.ctx h0) 0x40045A] := by decide
theorem test_commitDefvalA : outputs (exec .commitDefvalA (atPhase { ready with sr := zeros.set .defval .A 0x5A } .commitDefvalA .decode)) =
    some [.frame (.ctx h0) 0x40065A] := by decide
theorem test_commitIntconA : outputs (exec .commitIntconA (atPhase { ready with sr := zeros.set .intcon .A 0x5A } .commitIntconA .decode)) =
    some [.frame (.ctx h0) 0x40085A] := by decide
theorem test_commitGppuA : outputs (exec .commitGppuA (atPhase { ready with sr := zeros.set .gppu .A 0x5A } .commitGppuA .decode)) =
    some [.frame (.ctx h0) 0x400C5A] := by decide
theorem test_commitOlatA : outputs (exec .commitOlatA (atPhase { ready with sr := zeros.set .olat .A 0x5A } .commitOlatA .decode)) =
    some [.frame (.ctx h0) 0x40145A] := by decide
theorem test_commitIodirB : outputs (exec .commitIodirB (atPhase { ready with sr := zeros.set .iodir .B 0x5A } .commitIodirB .decode)) =
    some [.frame (.ctx h0) 0x40015A] := by decide
theorem test_commitIpolB : outputs (exec .commitIpolB (atPhase { ready with sr := zeros.set .ipol .B 0x5A } .commitIpolB .decode)) =
    some [.frame (.ctx h0) 0x40035A] := by decide
theorem test_commitGpintenB : outputs (exec .commitGpintenB (atPhase { ready with sr := zeros.set .gpinten .B 0x5A } .commitGpintenB .decode)) =
    some [.frame (.ctx h0) 0x40055A] := by decide
theorem test_commitDefvalB : outputs (exec .commitDefvalB (atPhase { ready with sr := zeros.set .defval .B 0x5A } .commitDefvalB .decode)) =
    some [.frame (.ctx h0) 0x40075A] := by decide
theorem test_commitIntconB : outputs (exec .commitIntconB (atPhase { ready with sr := zeros.set .intcon .B 0x5A } .commitIntconB .decode)) =
    some [.frame (.ctx h0) 0x40095A] := by decide
theorem test_commitGppuB : outputs (exec .commitGppuB (atPhase { ready with sr := zeros.set .gppu .B 0x5A } .commitGppuB .decode)) =
    some [.frame (.ctx h0) 0x400D5A] := by decide
theorem test_commitOlatB : outputs (exec .commitOlatB (atPhase { ready with sr := zeros.set .olat .B 0x5A } .commitOlatB .decode)) =
    some [.frame (.ctx h0) 0x40155A] := by decide
theorem test_commit_fails : outputs (exec .commitOlatA (inFrame ready .commitOlatA 0x401401 (.fail true))) =
    some [.response h0 0x03000000] := by decide
theorem test_commit_ends : (after (exec .commitOlatA (inFrame ready .commitOlatA 0x401405 (.ok 0 0 0)))).map
    (fun t => (t.chip, t.csN, t.bus)) = some ([(0x14, 0x05)], .high, .idle) := by decide

-- ==== register read (section 2.6 of the test vectors) and bare frames (R44, R45) ====

theorem test_readReg_begins : outputs (exec (.readReg 0x0E) (atPhase ready (.readReg 0x0E) .decode)) =
    some [.frame (.ctx h0) 0x410E00] := by decide
theorem test_readReg_ends : outputs (exec (.readReg 0x0E) (inFrame ready (.readReg 0x0E) 0x410E00 (.ok 0 0 0x81))) =
    some [.response h0 0x00000081] := by decide
theorem test_busWrite : (after (exec (.busWrite 0x0A 0x40) (inFrame ready (.busWrite 0x0A 0x40) 0x400A40 (.ok 0 0 0)))).map
    (·.chip) = some [(0x0A, 0x40)] := by decide
theorem test_busRead_pass : (after (exec (.busRead 0x0F)
    { withPass ready { Pass.fresh .B [] with phase := .frameBegun } with
      bus := .busy (.pass 0) 0x410F00, draw := { Draw.unused with frame := .ok 0 0 0x81 } })).map (·.passes) =
    some [(0, { Pass.fresh .B [] with f := 0x81, stage := .readCap })] := by decide

-- ==== listeners (section 2.7 of the test vectors) ====

theorem test_addGlobalListener : (after (exec (.addGlobalListener 0x11)
    (atPhase { ready with g := [0x05, 0x22] } (.addGlobalListener 0x11) .waitLock))).map (fun t => (t.g, t.trace)) =
    some ([0x05, 0x11, 0x22], [.response h0 0x00000000]) := by decide
theorem test_addGlobalListener_null : outputs (exec (.addGlobalListener 0) (atPhase ready (.addGlobalListener 0) .waitLock)) =
    some [.response h0 0x02000000] := by decide
theorem test_removeGlobalListener : (after (exec (.removeGlobalListener 0x05)
    (atPhase { ready with g := [0x05, 0x22] } (.removeGlobalListener 0x05) .waitLock))).map (·.g) = some [0x22] := by decide
theorem test_removeGlobalListener_absent :
    outputs (exec (.removeGlobalListener 5) (atPhase ready (.removeGlobalListener 5) .waitLock)) =
    some [.response h0 0x02000000] := by decide
theorem test_addPinListener : (after (exec (.addPinListener 15 0xFFFF) (atPhase ready (.addPinListener 15 0xFFFF) .waitLock))).map
    (·.pl) = some ((Vector.replicate 16 []).set 15 [0xFFFF]) := by decide
theorem test_addPinListener_twice : outputs (exec (.addPinListener 4 0x11)
    (atPhase { ready with pl := (Vector.replicate 16 []).set 4 [0x11] } (.addPinListener 4 0x11) .waitLock)) =
    some [.response h0 0x02000000] := by decide
theorem test_removePinListener : (after (exec (.removePinListener 4 0x11)
    (atPhase { ready with pl := (Vector.replicate 16 []).set 4 [0x11] } (.removePinListener 4 0x11) .waitLock))).map (·.pl) =
    some (Vector.replicate 16 []) := by decide
theorem test_removePinListener_16 :
    outputs (exec (.removePinListener 16 1) (atPhase ready (.removePinListener 16 1) .decode)) =
    some [.response h0 0x01000000] := by decide

-- ==== construction (section 2.8 of the test vectors) ====

theorem test_constructNone : (after (exec .constructNone (atPhase { State.reset with lc := .constructing } .constructNone .final))).map
    (fun t => (t.lc, t.topo, t.trace)) = some (.ready, .none, [.response h0 0x00000000]) := by decide
theorem test_constructTied : (after (exec .constructTied (atPhase { State.reset with lc := .constructing } .constructTied .final))).map
    (fun t => (t.lc, t.topo, t.trace)) = some (.ready, .tied, [.response h0 0x00000000]) := by decide
theorem test_constructBoth : (after (exec .constructBoth (atPhase { State.reset with lc := .constructing } .constructBoth .final))).map
    (fun t => (t.lc, t.topo, t.trace)) = some (.ready, .both, [.response h0 0x00000000]) := by decide
theorem test_constructAOnly : (after (exec .constructAOnly (atPhase { State.reset with lc := .constructing } .constructAOnly .final))).map
    (fun t => (t.lc, t.topo, t.trace)) = some (.ready, .aOnly, [.response h0 0x00000000]) := by decide
theorem test_constructBOnly : (after (exec .constructBOnly (atPhase { State.reset with lc := .constructing } .constructBOnly .final))).map
    (fun t => (t.lc, t.topo, t.trace)) = some (.ready, .bOnly, [.response h0 0x00000000]) := by decide
theorem test_constructTied_frame : outputs (exec .constructTied (atPhase { State.reset with lc := .constructing } .constructTied
    .frameReady)) = some [.frame (.ctx h0) 0x400A40] := by decide
theorem test_constructAOnly_bringUp_fails : (after (exec .constructAOnly
    (atPhase { State.reset with lc := .constructing, draw := { Draw.unused with bringUpOk := false } } .constructAOnly .bringUp))).map
    (fun t => (t.lc, t.csN, t.trace)) = some (.unconstructed, .unspec, [.bringUp h0, .response h0 0x03000000]) := by decide

-- ==== the router (section 2.9 of the test vectors) ====

/-- A pass at its scan over port `P` with flag byte `f` and capture byte `cap`. -/
def scanning (P : Port) (f cap : Byte) : Pass := { Pass.fresh P [] with f := f, cap := cap, stage := .scan }

theorem test_scan : (scanning .A 0x00 0xFF).scan.stage = .next ∧
    ((scanning .A 0x01 0x00).scan.pin, (scanning .A 0x01 0x00).scan.v) = (0, false) ∧
    ((scanning .A 0xFF 0x80).scan.pin, (scanning .A 0xFF 0x80).scan.v) = (0, false) ∧
    ((scanning .A 0x80 0x80).scan.pin, (scanning .A 0x80 0x80).scan.v) = (7, true) ∧
    ((scanning .A 0x0C 0x08).scan.pin, (scanning .A 0x0C 0x08).scan.v) = (2, false) ∧
    ((scanning .B 0x04 0x04).scan.pin, (scanning .B 0x04 0x04).scan.v) = (10, true) ∧
    ((scanning .B 0x80 0x7F).scan.pin, (scanning .B 0x80 0x7F).scan.v) = (15, false) ∧
    ((scanning .B 0x81 0x01).scan.pin, (scanning .B 0x81 0x01).scan.v) = (8, true) := by decide

/-- Edge acceptance, the rows of section 2.9: the port of the pass and those after it. -/
theorem test_edges : boundPorts .none .irqA = none ∧ boundPorts .none .irqT = none ∧ boundPorts .aOnly .irqA = some (.A, []) ∧
    boundPorts .aOnly .irqB = none ∧ boundPorts .bOnly .irqB = some (.B, []) ∧ boundPorts .bOnly .irqA = none ∧
    boundPorts .both .irqA = some (.A, []) ∧ boundPorts .both .irqB = some (.B, []) ∧ boundPorts .both .irqT = none ∧
    boundPorts .tied .irqT = some (.A, [.B]) ∧ boundPorts .tied .irqA = none ∧ boundPorts .tied .irqB = none := by decide

/-- P4, step 15: the flag read fails. -/
theorem test_router_fails : (after (exec (.busRead 0x0E)
    { withPass ready { Pass.fresh .A [] with phase := .frameBegun } with
      bus := .busy (.pass 0) 0x410E00, csN := .low, draw := { Draw.unused with frame := .fail false } })).map
    (fun t => (t.lc, t.faults, t.passes, t.csN)) = some (.fatal, ⟨false, true⟩, [], .high) := by decide

/-- Section 2.10: a commit whose FrameBegin meets a frame of a pass. -/
theorem test_bus_conflict : (after (exec .commitIodirA
    { atPhase ready .commitIodirA .decode with bus := .busy (.pass 0) 0x410E00 })).map (fun t => (t.faults, t.trace)) =
    some (⟨true, false⟩, []) := by decide

-- ==== states that meet the hypotheses of the statements, one for each clause ====

/-- A ready block, HOST[0] about to take a decode step. -/
def deciding : State := atPhase ready (.getDir 15) .decode

/-- Serves SetterAloneChangesOneBit, CommitsSendTheShadowByte, ReadRegRespondsTheByteRead, GetPinViewRespondsTheHandle,
GlobalListenersJoinAndLeave and PinListenersJoinAndLeave, in their decode step. -/
theorem witness_deciding : Decoding deciding h0 ∧ deciding.lc = .ready ∧ deciding.bus = .idle := ⟨⟨rfl, rfl⟩, rfl, rfl⟩

theorem witness_DecodeOfEncodeIsTheInstruction : (Instr.setOut 255 true).wellFormed = true := rfl

theorem witness_EncodeOfDecodeIsTheWord : decodeCode (.cmd 0x260F0001) = .ok (.setOut 15 true) ∧
    decodeCode (.frame 0x410E00) = .ok (.busRead 0x0E) := by decide

theorem witness_ExactlyTheLegalWordsAreCommands : legal 0x17000000 = false ∧
    TurnComes (shown ready 0x17000000) (.ctx h0) Draw.unused [] ∧
    (shown ready 0x17000000).job h0 = some { code := .cmd 0x17000000, phase := .decode } := ⟨by decide, rfl, rfl⟩

theorem witness_ExactlyTheLegalWordsAreCommands_fatal :
    TurnComes (shown { ready with lc := .fatal } 0xFFFFFFFF) (.ctx h0) Draw.unused [] ∧ legal 0xFFFFFFFF = false :=
  ⟨rfl, by decide⟩

theorem witness_StepRunsTheDecodedInstruction : TurnComes (shown ready 0x160F0000) (.ctx h0) Draw.unused [] ∧
    (shown ready 0x160F0000).job h0 = some { code := .cmd 0x160F0000, phase := .decode } ∧
    decodeCode (.cmd 0x160F0000) = .ok (.get 15) := ⟨rfl, rfl, by decide⟩

theorem witness_StepRunsTheDecodedInstruction_pass :
    TurnComes (withPass ready (Pass.fresh .B [])) (.pass 0) Draw.unused [] ∧
    Sparse.read (withPass ready (Pass.fresh .B [])).passes 0 = some (Pass.fresh .B []) ∧
    (Pass.fresh .B []).frame = some (.busRead 0x0F) := ⟨rfl, rfl, rfl⟩

theorem witness_OnlyIdleContextsAcceptCommands : (0 < Config.nhost) ∧
    ({ ready with env := [.command h0 0x16000000] } : State).job h0 = none :=
  ⟨Nat.succ_pos _, rfl⟩

theorem witness_OnlyIdleContextsAcceptCommands_listener :
    Sparse.read ({ ready with listeners := [(0, none)], env := [.command (.listener 0) 0x16000000] } : State).listeners 0 =
      some none := rfl

theorem witness_OnlyIdleContextsAcceptCommands_busy : ({ deciding with env := [.command h0 0x16000000] } : State).job h0 =
    some { code := encode (.getDir 15), phase := .decode } := rfl

theorem witness_EveryStepGoesOn : LifecycleWf State.reset := by
  refine ⟨fun c => ?_, fun c => ?_, fun h => ?_, fun _ => rfl⟩
  · cases c <;> simp [State.job, State.reset]
  · cases c <;> simp [State.job, State.reset]
  · simp [State.reset] at h

theorem witness_PinsArePortsAndBits : (15 : Pin).val = (7 : Pin).val + 8 ∧ portOf (15 : Pin) = .B ∧ bitIndex (15 : Pin) = 7 := by
  decide

theorem witness_BitSelectionAndInsertion : (6 : Nat) < 8 ∧ 6 ≠ bitIndex (15 : Pin) := by decide

theorem witness_FatalBlockAnswersFatal :
    ¬ IsFrame (.getDir 0) ∧ Decoding { deciding with lc := .fatal } h0 ∧ ({ deciding with lc := .fatal } : State).lc = .fatal :=
  ⟨by simp [IsFrame], ⟨rfl, rfl⟩, rfl⟩

theorem witness_FatalBlockAnswersFatal_word : let s := shown { ready with lc := .fatal } 0x17000000
    TurnComes s (.ctx h0) Draw.unused [] ∧ s.job h0 = some { code := .cmd 0x17000000, phase := .decode } ∧ s.lc = .fatal :=
  ⟨rfl, rfl, rfl⟩

theorem witness_UnconstructedBlockAnswersNotConstructed :
    ¬ IsFrame (.getDir 16) ∧ ¬ IsConstruction (.getDir 16) ∧ Decoding State.reset h0 ∧ State.reset.lc = .unconstructed ∧
    Decoding { deciding with lc := .constructing } h0 :=
  ⟨by simp [IsFrame], fun ⟨t, h⟩ => by cases t <;> simp [constructOf] at h, ⟨rfl, rfl⟩, rfl, ⟨rfl, rfl⟩⟩

theorem witness_SecondConstructionIsRefused : Decoding { deciding with lc := .constructing } h0 ∧ Decoding deciding h0 ∧
    deciding.lc = .ready := ⟨⟨rfl, rfl⟩, ⟨rfl, rfl⟩, rfl⟩

theorem witness_PinOutOfRangeIsInvalidPin : PinCommand 16 (.setPu 16 true) ∧ PinCommand 255 (.removePinListener 255 0) ∧
    15 < 16 := ⟨.inr (.inl ⟨.gppu, true, rfl⟩), .inr (.inr (.inr (.inl ⟨0, rfl⟩))), by decide⟩

theorem witness_ConfigGettersRespondTheShadowBit : Concern.gppu ≠ .olat ∧ Decoding deciding h0 ∧ deciding.lc = .ready :=
  ⟨by decide, ⟨rfl, rfl⟩, rfl⟩

theorem witness_GetOnAnOutputPinReadsTheShadow : let s := { deciding with sr := zeros.set .olat .B 0x80 }
    Decoding s h0 ∧ s.lc = .ready ∧ (s.sr.get .iodir (portFor 15)).getLsbD (15 % 8) = false := ⟨⟨rfl, rfl⟩, rfl, by decide⟩

theorem witness_GetOnAnInputPinReadsTheChip :
    (Decoding deciding h0 ∧ (deciding.sr.get .iodir (portFor 15)).getLsbD (15 % 8) = true) ∧
    (InPhase (atPhase ready (.get 15) .frameReady) h0 .frameReady ∧ (atPhase ready (.get 15) .frameReady).bus = .idle) ∧
    (InPhase (inFrame ready (.get 15) (readFrame 0x13) (.ok 0 0 0x80)) h0 .frameBegun ∧
      (inFrame ready (.get 15) (readFrame 0x13) (.ok 0 0 0x80)).bus = .busy (.ctx h0) (readFrame 0x13)) ∧
    InPhase (inFrame ready (.get 7) (readFrame 0x12) (.fail false)) h0 .frameBegun :=
  ⟨⟨⟨rfl, rfl⟩, by decide⟩, ⟨⟨rfl, rfl⟩, rfl⟩, ⟨⟨rfl, rfl⟩, rfl⟩, ⟨rfl, rfl⟩⟩

theorem witness_SettersWriteOneBit : Decoding deciding h0 ∧ InPhase (atPhase ready (.setOut 15 true) (.setterRead 0x7F)) h0
    (.setterRead 0x7F) := ⟨⟨rfl, rfl⟩, rfl, rfl⟩

theorem witness_ConcurrentSettersLoseAnUpdate : portOf (0 : Pin) = portOf (1 : Pin) ∧ h0 ≠ .host 1 ∧ ReadyFor ready h0 ∧
    ReadyFor ready (.host 1) ∧ ready.lc = .ready := ⟨by decide, by decide, rfl, rfl, rfl⟩

theorem witness_CommitsSendTheShadowByte :
    (InPhase (inFrame ready .commitOlatB (writeFrame 0x15 0x80) (.ok 0 0 0)) h0 .frameBegun ∧
      (inFrame ready .commitOlatB (writeFrame 0x15 0x80) (.ok 0 0 0)).bus = .busy (.ctx h0) (writeFrame 0x15 0x80)) ∧
    InPhase (inFrame ready .commitOlatB (writeFrame 0x15 0x80) (.fail true)) h0 .frameBegun :=
  ⟨⟨⟨rfl, rfl⟩, rfl⟩, rfl, rfl⟩

theorem witness_CommitSendsTheByteItSampled :
    let s := { ready with hosts := [(1, { code := encode (.setOut 0 true), phase := .setterRead 0 })] }
    h0 ≠ .host 1 ∧ ReadyFor s h0 ∧ (∃ code, s.job (.host 1) = some { code := code, phase := .setterRead 0 }) ∧
    s.lc = .ready ∧ s.bus = .idle ∧ s.draw.frame = .ok 0 0 0 := ⟨by decide, rfl, ⟨_, rfl⟩, rfl, rfl, rfl⟩

theorem witness_ReadRegRespondsTheByteRead :
    InPhase (inFrame ready (.readReg 0xFF) (readFrame 0xFF) (.ok 0 0 0x3C)) h0 .frameBegun ∧
    InPhase (inFrame ready (.readReg 0x13) (readFrame 0x13) (.fail false)) h0 .frameBegun := ⟨⟨rfl, rfl⟩, rfl, rfl⟩

theorem witness_BareFramesBeginAndEnd : (Decoding deciding h0 ∧ deciding.bus = .idle) ∧
    InPhase (inFrame ready (.busWrite 0x0A 0x40) (writeFrame 0x0A 0x40) (.ok 0 0 0)) h0 .frameBegun ∧
    InPhase (inFrame ready (.busRead 0x0A) (readFrame 0x0A) (.fail true)) h0 .frameBegun :=
  ⟨⟨⟨rfl, rfl⟩, rfl⟩, ⟨rfl, rfl⟩, rfl, rfl⟩

/-- Pass 0 in state `q`, with the read of register `a` begun and outcome `o` drawn. -/
def reading (q : Pass) (a : Byte) (o : FrameOutcome) : State :=
  { withPass ready { q with phase := .frameBegun } with
    bus := .busy (.pass 0) (readFrame a), csN := .low, draw := { Draw.unused with frame := o } }

theorem witness_PassReadsFlagThenCapture :
    (withPass ready (Pass.fresh .B [])).cur = .pass 0 ∧ (withPass ready (Pass.fresh .B [])).bus = .idle ∧
    (reading (Pass.fresh .A []) 0x0E (.ok 0 0 4)).bus = .busy (.pass 0) (readFrame 0x0E) ∧
    Sparse.read (reading { Pass.fresh .B [] with stage := .readCap } 0x11 (.ok 0 0 4)).passes 0 =
      some { Pass.fresh .B [] with stage := .readCap, phase := .frameBegun } := ⟨rfl, rfl, rfl, rfl⟩

theorem witness_RouterReadFailureIsFatal :
    (reading (Pass.fresh .B []) 0x0F (.fail false)).cur = .pass 0 ∧
    Sparse.read (reading (Pass.fresh .B []) 0x0F (.fail false)).passes 0 =
      some { Pass.fresh .B [] with phase := .frameBegun } ∧
    ({ Pass.fresh .B [] with phase := .frameBegun } : Pass).frame = some (.busRead 0x0F) ∧
    (reading (Pass.fresh .B []) 0x0F (.fail false)).bus = .busy (.pass 0) (readFrame 0x0F) ∧
    (reading (Pass.fresh .B []) 0x0F (.fail false)).draw.frame = .fail false := ⟨rfl, rfl, rfl, rfl, rfl⟩

theorem witness_FrameOnABusyBusIsAConflict :
    let b : Bus := .busy (.pass 0) 0x410E00
    (Decoding { deciding with bus := b } h0 ∧ deciding.lc = .ready) ∧
    InPhase { atPhase ready (.get 15) .frameReady with bus := b } h0 .frameReady ∧
    (withPass { ready with bus := .busy (.ctx h0) 0x410000 } (Pass.fresh .A [])).bus = .busy (.ctx h0) 0x410000 ∧
    InPhase (atPhase ready .commitIodirA .stuck) h0 .stuck ∧
    Sparse.read (withPass ready { Pass.fresh .A [] with phase := .stuck }).passes 0 =
      some { Pass.fresh .A [] with phase := .stuck } := ⟨⟨⟨rfl, rfl⟩, rfl⟩, ⟨rfl, rfl⟩, rfl, ⟨rfl, rfl⟩, rfl⟩

theorem witness_GlobalListenersJoinAndLeave :
    let s := atPhase { ready with g := [0x05] } (.addGlobalListener 0xFFFF) .waitLock
    InPhase s h0 .waitLock ∧ s.lkG = .free ∧ (0xFFFF : Lid) ≠ 0 ∧ (0xFFFF : Lid) ∉ s.g ∧ (0x05 : Lid) ∈ s.g :=
  ⟨⟨rfl, rfl⟩, rfl, by decide, by decide, by decide⟩

theorem witness_PinListenersJoinAndLeave :
    let s := atPhase { ready with pl := (Vector.replicate 16 []).set 15 [0x05] } (.addPinListener 15 0xFFFF) .waitLock
    InPhase s h0 .waitLock ∧ (15 : Pin).val = 15 ∧ s.lkPl[(15 : Pin)] = .free ∧ (0xFFFF : Lid) ∉ s.pl[(15 : Pin)] ∧
    (0x05 : Lid) ∈ s.pl[(15 : Pin)] := ⟨⟨rfl, rfl⟩, rfl, by decide, by decide, by decide⟩

/-- Serves also the clauses on a HELD lock of GlobalListenersJoinAndLeave and PinListenersJoinAndLeave. -/
theorem witness_ListenerCommandWaitsForTheLock :
    let s := atPhase { ready with lkG := .held 0, lkPl := (Vector.replicate 16 .free).set 15 (.held 0) }
      (.addGlobalListener 6) .waitLock
    InPhase s h0 .waitLock ∧ s.lkG = .held 0 ∧ s.lkPl[(15 : Pin)] = .held 0 := ⟨⟨rfl, rfl⟩, rfl, by decide⟩

/-- Pass 0 awaiting the DONE of its dispatch of pin 3 to listener 5 of PL[3]. -/
def awaiting : Pass :=
  { Pass.fresh .A [] with pin := 3, v := true, stage := .dispatchPin, rem := [5], phase := .awaitDone 5 }

/-- The block with that pass, whose listener's context has `job`. -/
def dispatched (job : Option Job) (e : EnvEvent) : State :=
  { withPass ready awaiting with
    lkPl := (Vector.replicate 16 .free).set 3 (.held 0), pl := (Vector.replicate 16 []).set 3 [5], listeners := [(0, job)],
    env := [e] }

theorem witness_SelfMutationIsStuck :
    let s := dispatched (some { code := encode (.removePinListener 3 5), phase := .waitLock }) (.done 0)
    Sparse.read s.passes 0 = some awaiting ∧ awaiting.phase = .awaitDone 5 ∧ s.lock (.pin 3) = .held 0 ∧
    s.job (.listener 0) = some { code := encode (.removePinListener 3 5), phase := .waitLock } ∧
    decodeCode (encode (.removePinListener 3 5)) = .ok (.removePinListener 3 5) ∧ awaiting.iterates (.pin 3) :=
  ⟨rfl, rfl, by decide, rfl, by decide, .inr ⟨5, rfl⟩, rfl, rfl⟩

theorem witness_ConstructionsRunTheirSteps : (Decoding State.reset h0 ∧ State.reset.lc = .unconstructed) ∧
    (InPhase (atPhase State.reset .constructBoth .bringUp) h0 .bringUp ∧
      (atPhase State.reset .constructBoth .bringUp).draw.bringUpOk = true) ∧
    (InPhase (atPhase { State.reset with draw := { Draw.unused with bringUpOk := false } } .constructTied .bringUp) h0 .bringUp ∧
      (atPhase { State.reset with draw := { Draw.unused with bringUpOk := false } } .constructTied .bringUp).draw.bringUpOk =
        false) ∧
    InPhase (atPhase State.reset .constructTied .final) h0 .final :=
  ⟨⟨⟨rfl, rfl⟩, rfl⟩, ⟨⟨rfl, rfl⟩, rfl⟩, ⟨⟨rfl, rfl⟩, rfl⟩, rfl, rfl⟩

theorem witness_TiedConstructionSendsTheIoconFrame :
    (InPhase (atPhase State.reset .constructTied .frameReady) h0 .frameReady ∧
      (atPhase State.reset .constructTied .frameReady).bus = .idle) ∧
    InPhase (inFrame State.reset .constructTied 0x400A40 (.ok 0 0 0)) h0 .frameBegun ∧
    InPhase (inFrame State.reset .constructTied 0x400A40 (.fail true)) h0 .frameBegun :=
  ⟨⟨⟨rfl, rfl⟩, rfl⟩, ⟨rfl, rfl⟩, rfl, rfl⟩

theorem witness_ConstructionFromResetLeavesTheDefaults : let s : State := { State.reset with csN := .high, chip := [(0x0A, 0)] }
    ReadyFor s h0 ∧ s.lc = .unconstructed ∧ s.sr = Shadow.reset ∧ s.draw.bringUpOk = true ∧ s.bus = .idle ∧
    s.draw.frame = .ok 0 0 0 := ⟨rfl, rfl, rfl, rfl, rfl, rfl⟩

theorem witness_EdgesStartPassesOnBoundInputs :
    let lost : State := { State.reset with env := [.edge .irqA] }
    let bound : State := { ready with env := [.edge .irqB] }
    (lost.env = [.edge .irqA] ∧ lost.lc ≠ .ready ∧ lost.topo = .none) ∧
    (bound.lc = .ready ∧ bound.passes = [] ∧ bound.topo = .both) ∧
    (IrqLine.irqT = .irqT ∧ bound.topo ≠ .tied) := ⟨⟨rfl, by decide, rfl⟩, ⟨rfl, rfl, rfl⟩, rfl, by decide⟩

theorem witness_ScanTakesTheLowestFlag :
    (TurnComes (withPass ready (scanning .B 0x80 0x7F)) (.pass 0) Draw.unused [] ∧ (scanning .B 0x80 0x7F).stage = .scan ∧
      (scanning .B 0x80 0x7F).phase = .ready ∧ (0x80 : Byte).getLsbD 7 = true ∧
      ∀ i : Fin 8, i < 7 → (0x80 : Byte).getLsbD i.val = false) ∧ (scanning .A 0 0xFF).f = 0 :=
  ⟨⟨rfl, rfl, rfl, by decide, by decide⟩, rfl⟩

theorem witness_DispatchTakesTheLock :
    let q : Pass := { Pass.fresh .B [] with pin := 15, stage := .dispatchPin }
    TurnComes (withPass ready q) (.pass 0) Draw.unused [] ∧ Sparse.read (withPass ready q).passes 0 = some q ∧
    q.phase = .ready ∧ (withPass ready q).lock (.pin q.pin) = .free ∧
    (withPass { ready with lkG := .held 1 } { Pass.fresh .A [] with stage := .dispatchGlobal }).lock .global = .held 1 :=
  ⟨rfl, rfl, rfl, by decide, rfl⟩

theorem witness_DispatchGoesToAnyRemainingListener :
    let q : Pass := { awaiting with phase := .iterating, rem := [5, 6] }
    Sparse.read (withPass ready q).passes 0 = some q ∧ q.phase = .iterating ∧ q.rem ≠ [] ∧ q.stage = .dispatchPin ∧
    TurnComes (withPass ready q) (.pass 0) Draw.unused [] ∧ (6 : Lid) ∈ q.rem :=
  ⟨rfl, rfl, by decide, rfl, rfl, by decide⟩

theorem witness_DoneTakesTheListenerOff :
    Sparse.read (dispatched none (.done 0)).passes 0 = some awaiting ∧
    Sparse.read (dispatched none (.done 0)).listeners 0 = some none ∧
    Sparse.read (dispatched (some { code := .cmd 0x42000006, phase := .decode }) (.done 0)).listeners 0 =
      some (some { code := .cmd 0x42000006, phase := .decode }) := ⟨rfl, rfl, rfl⟩

theorem witness_DispatchReleasesTheLock :
    let q : Pass := { awaiting with phase := .iterating, rem := [] }
    TurnComes (withPass ready q) (.pass 0) Draw.unused [] ∧ Sparse.read (withPass ready q).passes 0 = some q ∧
    q.phase = .iterating ∧ q.rem = [] ∧ q.stage = .dispatchPin ∧
    ({ q with stage := .dispatchGlobal } : Pass).stage = .dispatchGlobal ∧ awaiting.phase = .awaitDone 5 :=
  ⟨rfl, rfl, rfl, rfl, rfl, rfl, rfl⟩

theorem witness_PassGoesToItsNextPortOrEnds :
    let q : Pass := { Pass.fresh .A [.B] with stage := .next }
    TurnComes (withPass ready q) (.pass 0) Draw.unused [] ∧ Sparse.read (withPass ready q).passes 0 = some q ∧
    q.stage = .next ∧ q.phase = .ready ∧ q.queue = [.B] ∧ (Pass.fresh .A []).queue = [] := ⟨rfl, rfl, rfl, rfl, rfl, rfl⟩

/-- A ready block with no frame, job or pass has a coherent bus. -/
theorem witness_BusWf : BusWf ready := by
  refine ⟨by decide, fun a => ?_⟩
  cases a with
  | ctx c => cases c <;> simp [HasBegun, State.job, ready, State.reset]
  | pass j => simp [HasBegun, ready, State.reset]

theorem witness_RouterLeavesShadowSetsAndChip :
    TurnComes (withPass ready (Pass.fresh .A [])) (.pass 0) Draw.unused [] ∧
    after (step (withPass ready (Pass.fresh .A []))) ≠ none ∧ BusWf (withPass ready (Pass.fresh .A [])) := by
  refine ⟨rfl, by decide, by decide, fun a => ?_⟩
  cases a with
  | ctx c => cases c <;> simp [HasBegun, State.job, withPass, ready, State.reset]
  | pass j =>
    rintro ⟨p, hp, h⟩
    simp only [withPass, Sparse.read] at hp
    split at hp
    · cases hp; cases h
    · cases hp

theorem witness_ResetGivesTheResetValues : ({ deciding with env := [.reset true] } : State).env = .reset true :: [] := rfl

/-- A step from a state that meets every invariant: reset, with a construction's first step coming. It serves ListenerSetsStaySets,
MapsStayCanonical, LocksFollowThePasses, ChipSelectAndLifecycleStayCoherent and UnconstructedBlockHoldsTheDefaults. -/
theorem witness_invariants : let s := shown State.reset 0x61000000
    step s = .next { s with hosts := [(0, { code := .cmd 0x61000000, phase := .bringUp })], env := [], lc := .constructing } ∧
    SetsWf s ∧ MapsWf s ∧ NamesFresh s ∧ LocksWf s ∧ DispatchWf s ∧ BusWf s ∧ LifecycleWf s ∧
    ChipSelectWf s ∧ DefaultsWf s := by
  have job : ∀ c, (shown State.reset 0x61000000).job c =
      if c = h0 then some { code := .cmd 0x61000000, phase := .decode } else none := by
    intro c
    cases c with
    | host k =>
      simp only [State.job, shown, Sparse.read, h0, Ctx.host.injEq, eq_comm]
    | listener j => rfl
  refine ⟨rfl, fun t => ?_, ⟨rfl, rfl, rfl, rfl⟩, fun j _ => ⟨rfl, rfl⟩, fun t j => ?_, fun j p h => (by cases h),
    ⟨by decide, fun a => ?_⟩,
    ⟨fun c x h => ?_, fun c x h hp => ?_, fun h => (by cases h), fun _ => rfl⟩, ⟨by decide, fun c x h hp => ?_⟩,
    fun _ => ⟨rfl, fun u => ?_⟩⟩
  · cases t <;> simp [State.members, shown, State.reset, lidSetWf]
  · cases t <;> simp [State.lock, shown, State.reset]
  · cases a with
    | ctx c =>
      rintro ⟨x, hx, hp⟩
      rw [job] at hx
      split at hx <;> simp_all
      subst hx; cases hp
    | pass j => rintro ⟨p, hp, -⟩; cases hp
  · rw [job] at h; split at h <;> simp_all
    exact ⟨_, by rw [← h]⟩
  · rw [job] at h; split at h <;> simp_all
    subst h; exact absurd rfl hp
  · rw [job] at h; split at h <;> simp_all
    subst h; simp at hp
  · cases u <;> simp [State.members, shown, State.reset]

theorem witness_EachCommandHasOneResponse : let s := shown ready 0x10000000
    DispatchWf s ∧ ¬ ResetComes s ∧ s.job h0 ≠ none ∧ (after (step s)).map (·.job h0) = some none ∧
    (after (step s)).map (responsesTo h0 ·.trace) = some [0x00000001] :=
  ⟨fun j p h => (by cases h), fun ⟨l, r, h⟩ => (by cases h), by decide, by decide, by decide⟩

theorem witness_FaultsAreSticky : let s := { deciding with faults := ⟨true, true⟩ }
    after (step s) ≠ none ∧ ¬ ResetComes s ∧ s.faults.busConflict = true ∧ s.faults.routerIo = true := by
  refine ⟨by decide, ?_, rfl, rfl⟩
  rintro ⟨l, r, h⟩
  cases h

theorem witness_OnlyResetLeavesFatal : let s : State := { State.reset with lc := .fatal, env := [.edge .irqA] }
    LifecycleWf s ∧ s.lc = .fatal ∧ after (step s) ≠ none ∧ ¬ ResetComes s := by
  refine ⟨⟨fun c => ?_, fun c => ?_, fun h => (by cases h), fun _ => rfl⟩, rfl, by decide, ?_⟩
  · cases c <;> simp [State.job, State.reset]
  · cases c <;> simp [State.job, State.reset]
  · rintro ⟨l, r, h⟩; cases h

theorem witness_OnlySettersAndResetWriteTheShadow :
    (after (step (atPhase ready (.setOut 15 true) (.setterRead 0)))).map (·.sr) ≠ some ready.sr := by decide

theorem witness_SetsChangeOnlyWhileUnlocked :
    (after (step (atPhase ready (.addGlobalListener 1) .waitLock))).map (·.g) ≠ some ready.g := by decide

theorem witness_OnlyConstructionWritesTheTopology :
    (after (step (atPhase { State.reset with lc := .constructing } .constructTied .final))).map (·.topo) ≠
      some State.reset.topo := by decide

theorem witness_ResetDropsListenersAndCommands : let s : State :=
      { dispatched (some { code := .cmd 0x360F0000, phase := .frameBegun }) (.reset true) with
        bus := .busy (.ctx (.listener 0)) (writeFrame 0x14 0xFF), csN := .low }
    s.env = [.reset true] ∧ s.bus = .busy (.ctx (.listener 0)) (writeFrame 0x14 0xFF) := ⟨rfl, rfl⟩

/-- HOST[0] stuck after a bus conflict, nothing else in flight, and event `e` to come. -/
def stuckHost (e : EnvEvent) : State :=
  { ready with
    hosts := [(0, { code := .cmd 0x30000000, phase := .stuck })], faults := ⟨true, false⟩, env := [e] }

/-- What `stuckHost` has as jobs. -/
theorem stuckHost_job (e : EnvEvent) (c : Ctx) (job : Job) (h : (stuckHost e).job c = some job) :
    c = h0 ∧ job = { code := .cmd 0x30000000, phase := .stuck } := by
  cases c with
  | host k =>
    simp only [stuckHost, State.job, Sparse.read] at h
    split at h
    · next hk => subst hk; exact ⟨rfl, (Option.some.inj h).symm⟩
    · cases h
  | listener j => cases h

theorem stuckHost_lifecycle (e : EnvEvent) : LifecycleWf (stuckHost e) := by
  refine ⟨fun c job h => ?_, fun c job h _ => ?_, fun h => (by cases h), fun _ => rfl⟩
  · obtain ⟨-, rfl⟩ := stuckHost_job e c job h
    exact ⟨_, rfl⟩
  · obtain ⟨-, rfl⟩ := stuckHost_job e c job h
    refine ⟨by simp [stuckHost, ready], .commitIodirA, by decide, fun ⟨t, h⟩ => ?_, fun h => (by cases h)⟩
    cases t <;> cases h

theorem witness_StuckAgentsStayStuck : let s := stuckHost (.turn (.ctx h0) Draw.unused)
    NamesFresh s ∧ LocksWf s ∧ DispatchWf s ∧ LifecycleWf s ∧ (after (step s)).map (·.lc) = some .ready ∧
    ¬ ResetComes s ∧ CtxStuck s h0 := by
  refine ⟨fun j _ => ⟨rfl, rfl⟩, fun t j => ⟨fun h => ?_, fun ⟨p, hp, _⟩ => (by cases hp)⟩, fun j p h => (by cases h),
    stuckHost_lifecycle _, by decide, fun ⟨l, r, h⟩ => (by cases h), _, rfl, rfl⟩
  cases t <;> simp [State.lock, stuckHost, ready, State.reset] at h

/-- The pass and its listener's context of `witness_SelfMutationIsStuck` are stuck, in a state that meets the invariants. -/
theorem witness_StuckAgentsStayStuck_ownPass :
    let job : Job := { code := .cmd 0x41030005, phase := .waitLock }
    let s := dispatched (some job) (.turn (.ctx (.listener 0)) Draw.unused)
    NamesFresh s ∧ LocksWf s ∧ DispatchWf s ∧ LifecycleWf s ∧ (after (step s)).map (·.lc) = some .ready ∧
    ¬ ResetComes s ∧ AgentStuck s (.pass 0) := by
  intro job s
  have pass : ∀ j p, Sparse.read s.passes j = some p → j = 0 ∧ p = awaiting := by
    intro j p h
    simp only [s, dispatched, withPass, Sparse.read] at h
    split at h
    · next hj => exact ⟨hj.symm, (Option.some.inj h).symm⟩
    · cases h
  have jobs : ∀ c x, s.job c = some x → x = job := by
    intro c x h
    cases c with
    | host k => cases h
    | listener k =>
      simp only [s, dispatched, State.job, Sparse.read] at h
      split at h
      · exact (Option.some.inj h).symm
      · cases h
  have iter : ∀ u, awaiting.iterates u ↔ u = .pin 3 := by
    intro u
    cases u <;> simp [Pass.iterates, awaiting, Pass.fresh, eq_comm]
  refine ⟨fun j hj => ?_, fun u j => ?_, fun j p h => ?_, ⟨fun c x h => ?_, fun c x h _ => ?_, fun h => (by cases h), fun h => absurd rfl h⟩,
    by decide, fun ⟨l, r, h⟩ => (by cases h), ?_⟩
  · cases j with
    | zero => exact absurd hj (by decide)
    | succ j => exact ⟨rfl, rfl⟩
  · constructor
    · intro h
      cases u with
      | global => cases h
      | pin q =>
        have hq : ∀ q : Pin, s.lkPl[q] = if q = 3 then .held 0 else .free := by decide
        have h' : s.lkPl[q] = .held j := h
        rw [hq] at h'
        split at h'
        · next e => cases h'; exact ⟨awaiting, rfl, (iter _).2 (congrArg _ e)⟩
        · cases h'
    · rintro ⟨p, hp, hi⟩
      obtain ⟨rfl, rfl⟩ := pass j p hp
      rw [(iter u).1 hi]
      decide
  · obtain ⟨rfl, rfl⟩ := pass j p h
    refine ⟨⟨fun _ => ⟨5, rfl⟩, fun _ => rfl⟩, fun lid h => ?_, fun u hu lid hl => ?_⟩
    · cases h; decide
    · rw [(iter u).1 hu]; exact hl
  · rw [jobs c x h]; exact ⟨_, rfl⟩
  · rw [jobs c x h]
    refine ⟨by decide, .removePinListener 3 5, by decide, fun ⟨t, h⟩ => ?_, fun h => (by cases h)⟩
    cases t <;> cases h
  · exact .inr ⟨awaiting, 5, .pin 3, job, .removePinListener 3 5, rfl, rfl, (iter _).2 rfl, by decide, rfl, rfl, by decide,
      5, .inr rfl⟩

/-- A run that has ended badly, and one that is stuck without end, each with a step to come that is no reset. -/
theorem witness_EndedRunsStayEnded :
    let e : EnvEvent := .turn (.ctx h0) Draw.unused
    let b := { State.reset with env := [e], faults := { State.reset.faults with routerIo := true } }
    let s := stuckHost e
    (RunEndedBadly b ∧ RunHalted b ∧ DispatchWf b ∧ LifecycleWf b ∧ after (step b) ≠ none ∧ ¬ ResetComes b) ∧
    (RunStuck s ∧ DispatchWf s ∧ LifecycleWf s ∧ after (step s) ≠ none ∧ ¬ ResetComes s) := by
  intro e b s
  have idle : ∀ c, b.job c = none := fun c => by cases c <;> rfl
  have nothing : ∀ x : State, x.env = [e] → NothingFurther x := fun x hx e' he => by
    rw [hx, List.mem_singleton] at he
    simp [he, e]
  refine ⟨⟨⟨⟨idle, rfl, rfl, nothing b rfl⟩, .inl (by simp [Safe, b])⟩,
      ⟨fun c h => absurd (idle c) h, fun j p h => (by cases h), rfl, nothing b rfl⟩, fun j p h => (by cases h),
      ⟨fun c job h => (by rw [idle c] at h; cases h), fun c job h => (by rw [idle c] at h; cases h), fun h => (by cases h),
        fun _ => rfl⟩, by decide, fun ⟨l, r, h⟩ => (by simp [b, e] at h)⟩,
    ⟨⟨fun c h => ?_, fun j p h => (by cases h), rfl, nothing s rfl⟩, .ctx h0, .inl ⟨_, rfl, rfl⟩⟩, fun j p h => (by cases h),
    stuckHost_lifecycle _, by decide, fun ⟨l, r, h⟩ => (by simp [s, stuckHost, e] at h)⟩
  obtain ⟨job, hj⟩ := Option.ne_none_iff_exists'.1 h
  obtain ⟨rfl, rfl⟩ := stuckHost_job _ c job hj
  exact .inl ⟨_, hj, rfl⟩

/-- An ended run in which the late DONE of listener 0, whose pass is gone, is still to come: its context is taken off. -/
theorem witness_EndedRunsStayEnded_lateDone :
    let s := { State.reset with env := [.done 0], listeners := [(0, none)] }
    RunEnded s ∧ ¬ ResetComes s ∧ (after (step s)).map (·.listeners) = some [] := by
  refine ⟨⟨fun c => ?_, rfl, rfl, fun e he => ?_⟩, fun ⟨l, r, h⟩ => (by simp at h), by decide⟩
  · cases c with
    | host k => rfl
    | listener k => simp only [State.job, Sparse.read]; split <;> rfl
  · rw [List.mem_singleton.1 he]; simp

end Sys2Proof.Tests
end

section
/-! The turn of an agent: an equation for `step` where a turn comes first, and one for each way the agent whose turn it is
comes to run an instruction (00_scope.md R9, R36, R212). -/

namespace Sys2Proof.Machine

variable {s : State}

/-- A step in which a turn comes first is that agent's own step, once the turn is taken off the list (R9). -/
theorem step_of_turnComes {a : Agent} {d : Draw} {rest : List EnvEvent} (h : TurnComes s a d rest) :
    step s = takeTurn a (s.given a d rest) := by
  have henv : s.env = .turn a d :: rest := h
  calc step s = runEvent (.turn a d) (s.load (.turn a d) rest) := by simp only [step, henv]
    _ = takeTurn a (s.given a d rest) := rfl

theorem runJob_of_decodes {job : Job} {i : Instr} (hi : decodeCode job.code = .ok i) : runJob job s = exec i s := by
  simp only [runJob, hi]

theorem takeTurn_ctx_of_busy {c : Ctx} {job : Job} (hj : s.job c = some job) : takeTurn (.ctx c) s = runJob job s := by
  simp only [takeTurn, hj]

theorem takeTurn_pass_of_frame {j : Nat} {p : Pass} {i : Instr} (hp : Sparse.read s.passes j = some p)
    (hf : p.frame = some i) : takeTurn (.pass j) s = exec i s := by
  simp only [takeTurn, hp, hf]

/-- Settles O5: giving an agent its turn changes neither its job nor its pass, so what it runs is what it held before. -/
theorem stepRunsTheDecodedInstruction : Obligations.StepRunsTheDecodedInstruction := by
  intro s d rest i
  constructor
  · intro c job hturn hjob hi
    have hjob' : (s.given (.ctx c) d rest).job c = some job := by rw [State.job_given, hjob]
    calc step s = takeTurn (.ctx c) (s.given (.ctx c) d rest) := step_of_turnComes hturn
      _ = runJob job (s.given (.ctx c) d rest) := takeTurn_ctx_of_busy hjob'
      _ = exec i (s.given (.ctx c) d rest) := runJob_of_decodes hi
  · intro j p hturn hp hf
    have hp' : Sparse.read (s.given (.pass j) d rest).passes j = some p := by rw [State.given_passes, hp]
    calc step s = takeTurn (.pass j) (s.given (.pass j) d rest) := step_of_turnComes hturn
      _ = exec i (s.given (.pass j) d rest) := takeTurn_pass_of_frame hp' hf

end Sys2Proof.Machine
end

section
/-! The bits of a command and the command they decode to: a legal word is the bits of its command, so a job keeps its word
while its command runs (R76, R79, R80). -/

namespace Sys2Proof

variable {w : CmdWord} {i j : Instr}

theorem needZeroD_eq_ok : needZeroD w i = .ok j ↔ i = j ∧ dField w = 0 := by
  unfold needZeroD; split <;> simp_all

theorem needZeroA_eq_ok : needZeroA w i = .ok j ↔ i = j ∧ aField w = 0 := by
  unfold needZeroA; split <;> simp_all

theorem needZeroAD_eq_ok : needZeroAD w i = .ok j ↔ i = j ∧ dField w = 0 ∧ aField w = 0 := by
  unfold needZeroAD; split <;> simp_all [needZeroD_eq_ok]

/-- A field D whose upper fifteen bits are zero is the zero-extension of its value bit (R74). -/
theorem vWord_vBit (h : (dField w).extractLsb' 1 15 = 0) : vWord (vBit w) = dField w := by
  apply BitVec.eq_of_getLsbD_eq
  intro k hk
  cases k with
  | zero => cases hv : (dField w).getLsbD 0 <;> simp [vWord, vBit, hv, -BitVec.getLsbD_eq_getElem]
  | succ k =>
    have hbit := congrArg (fun b => BitVec.getLsbD b k) h
    simp only [BitVec.getLsbD_extractLsb', show k < 15 by omega, decide_true, Bool.true_and, Nat.add_comm 1 k] at hbit
    rw [hbit, vWord]
    split <;> simp

theorem needBitD_eq_ok : needBitD w i = .ok j ↔ i = j ∧ vWord (vBit w) = dField w := by
  have hv : (dField w).extractLsb' 1 15 = 0 ↔ vWord (vBit w) = dField w :=
    ⟨vWord_vBit, fun h => h ▸ vWord_high (vBit w)⟩
  unfold needBitD
  split <;> simp_all

/-- A word with the opcode `op` and the fields `a` and `d` is made of them (R70). -/
theorem cmdWord_eq {op a : Byte} {d : BitVec 16} (ho : (opField w).toNat = op.toNat) (ha : a = aField w)
    (hd : d = dField w) : cmdWord op a d = w := by
  rw [← BitVec.eq_of_toNat_eq ho, ha, hd, cmdWord_fields]

/-- A legal command word is the bits of the command it decodes to (R76, R79): row by row of the opcode map, each field is
the one that the row's check leaves. -/
theorem encode_of_decode (h : decode w = .ok i) : encode i = .cmd w := by
  unfold decode at h
  split at h
  case h_29 ho | h_30 ho =>
    cases h
    exact congrArg Code.cmd (cmdWord_eq ho (by simp) rfl)
  case h_40 => cases h
  all_goals
    next ho =>
    simp only [needZeroD_eq_ok, needZeroA_eq_ok, needZeroAD_eq_ok, needBitD_eq_ok] at h
    obtain ⟨rfl, hfields⟩ := h
    refine congrArg Code.cmd (cmdWord_eq ho ?_ ?_) <;> simp [hfields]

/-- A command word never decodes to a frame (R82). -/
theorem not_isFrame_of_decode (h : decode w = .ok i) : ¬ Machine.IsFrame i := by
  rintro (⟨a, v, rfl⟩ | ⟨a, rfl⟩) <;> exact Code.noConfusion (encode_of_decode h)

end Sys2Proof
end

section
/-! What a set, a lock and a job read as after an update of other fields: one lemma for each shared operation, so that a
frame fact about a step is a rewriting. -/

namespace Sys2Proof.Machine

variable (s : State)

-- ---- the listener sets (R25) ----

@[simp] theorem State.members_given (a : Agent) (d : Draw) (rest : List EnvEvent) (u : SetId) :
    (s.given a d rest).members u = s.members u := State.members_congr rfl rfl u
@[simp] theorem State.members_answered (c : Ctx) (st : Byte) (r : BitVec 16) (u : SetId) :
    (s.answered c st r).members u = s.members u := State.members_congr (by simp) (by simp) u
@[simp] theorem State.members_waiting (c : Ctx) (i : Instr) (ph : Phase) (u : SetId) :
    (s.waiting c i ph).members u = s.members u := State.members_congr (by simp) (by simp) u
@[simp] theorem State.members_setJob (c : Ctx) (job : Job) (u : SetId) :
    (s.setJob c job).members u = s.members u := State.members_congr (by simp) (by simp) u
@[simp] theorem State.members_framed (a : Agent) (f : FrameWord) (u : SetId) :
    (s.framed a f).members u = s.members u := State.members_congr rfl rfl u
@[simp] theorem State.members_frameEnd (u : SetId) : s.frameEnd.members u = s.members u := State.members_congr rfl rfl u
@[simp] theorem State.members_busConflict (u : SetId) : s.busConflict.members u = s.members u :=
  State.members_congr rfl rfl u
@[simp] theorem State.members_setPass (j : Nat) (p : Pass) (u : SetId) :
    (s.setPass j p).members u = s.members u := State.members_congr rfl rfl u
@[simp] theorem State.members_endPass (j : Nat) (u : SetId) : (s.endPass j).members u = s.members u :=
  State.members_congr rfl rfl u
@[simp] theorem State.members_routerFatal (u : SetId) : s.routerFatal.members u = s.members u :=
  State.members_congr rfl rfl u
@[simp] theorem State.members_setLock (u' : SetId) (l : Lock) (u : SetId) :
    (s.setLock u' l).members u = s.members u := State.members_congr (by simp) (by simp) u

-- ---- the locks (R32) ----

@[simp] theorem State.lock_given (a : Agent) (d : Draw) (rest : List EnvEvent) (u : SetId) :
    (s.given a d rest).lock u = s.lock u := State.lock_congr rfl rfl u
@[simp] theorem State.lock_answered (c : Ctx) (st : Byte) (r : BitVec 16) (u : SetId) :
    (s.answered c st r).lock u = s.lock u := State.lock_congr (by simp) (by simp) u
@[simp] theorem State.lock_waiting (c : Ctx) (i : Instr) (ph : Phase) (u : SetId) :
    (s.waiting c i ph).lock u = s.lock u := State.lock_congr (by simp) (by simp) u
@[simp] theorem State.lock_setJob (c : Ctx) (job : Job) (u : SetId) : (s.setJob c job).lock u = s.lock u :=
  State.lock_congr (by simp) (by simp) u
@[simp] theorem State.lock_framed (a : Agent) (f : FrameWord) (u : SetId) : (s.framed a f).lock u = s.lock u :=
  State.lock_congr rfl rfl u
@[simp] theorem State.lock_frameEnd (u : SetId) : s.frameEnd.lock u = s.lock u := State.lock_congr rfl rfl u
@[simp] theorem State.lock_busConflict (u : SetId) : s.busConflict.lock u = s.lock u := State.lock_congr rfl rfl u
@[simp] theorem State.lock_setPass (j : Nat) (p : Pass) (u : SetId) : (s.setPass j p).lock u = s.lock u :=
  State.lock_congr rfl rfl u
@[simp] theorem State.lock_endPass (j : Nat) (u : SetId) : (s.endPass j).lock u = s.lock u := State.lock_congr rfl rfl u
@[simp] theorem State.lock_setMembers (u' : SetId) (l : List Lid) (u : SetId) :
    (s.setMembers u' l).lock u = s.lock u := State.lock_congr (by simp) (by simp) u

/-- A fatal step releases every lock that a pass in flight holds (R223). -/
@[simp] theorem State.lock_routerFatal (u : SetId) : s.routerFatal.lock u = releaseLock s.passes (s.lock u) := by
  cases u <;> simp [State.lock]

/-- After the release of the locks of the passes `ps` only a lock of another pass is HELD (R223). -/
theorem releaseLock_eq_held {ps : Sparse Pass} {l : Lock} {k : Nat} :
    releaseLock ps l = .held k ↔ l = .held k ∧ Sparse.read ps k = none := by
  cases l with
  | free => simp [releaseLock]
  | held k' => by_cases h : Sparse.read ps k' = none <;> simp [releaseLock, h, Option.isSome_iff_ne_none] <;> grind

-- ---- the jobs (R36) ----

@[simp] theorem State.job_framed (a : Agent) (f : FrameWord) (c : Ctx) : (s.framed a f).job c = s.job c :=
  State.job_congr rfl rfl c
@[simp] theorem State.job_frameEnd (c : Ctx) : s.frameEnd.job c = s.job c := State.job_congr rfl rfl c
@[simp] theorem State.job_busConflict (c : Ctx) : s.busConflict.job c = s.job c := State.job_congr rfl rfl c
@[simp] theorem State.job_setPass (j : Nat) (p : Pass) (c : Ctx) : (s.setPass j p).job c = s.job c :=
  State.job_congr rfl rfl c
@[simp] theorem State.job_endPass (j : Nat) (c : Ctx) : (s.endPass j).job c = s.job c := State.job_congr rfl rfl c
@[simp] theorem State.job_routerFatal (c : Ctx) : s.routerFatal.job c = s.job c := State.job_congr rfl rfl c
@[simp] theorem State.job_setMembers (u : SetId) (l : List Lid) (c : Ctx) : (s.setMembers u l).job c = s.job c :=
  State.job_congr (by simp) (by simp) c
@[simp] theorem State.job_setLock (u : SetId) (l : Lock) (c : Ctx) : (s.setLock u l).job c = s.job c :=
  State.job_congr (by simp) (by simp) c

/-- After a reset every context is IDLE (R270). -/
@[simp] theorem State.job_blockReset (landed : Bool) (c : Ctx) : (blockReset landed s).job c = none := by
  cases c <;> rfl

end Sys2Proof.Machine
end

section
/-! A context that has the step and runs a command. -/

namespace Sys2Proof.Machine

/-- Context `c` has the step, and its job is the command word of instruction `i`, in phase `ph` (R36, R79). -/
structure Running (s : State) (c : Ctx) (i : Instr) (ph : Phase) : Prop where
  cur : s.cur = .ctx c
  job : s.job c = some { code := encode i, phase := ph }
  code : ∃ w, encode i = .cmd w
  decodes : decodeCode (encode i) = .ok i
  not_frame : ¬ IsFrame i

variable {s : State} {c : Ctx} {i : Instr} {ph : Phase}

theorem Running.phase (h : Running s c i ph) : s.phase = some ph := by
  rw [State.phase_ctx h.cur, h.job]

theorem Running.phase_eq {ph' : Phase} (h : Running s c i ph) (hp : s.phase = some ph') : ph = ph' :=
  Option.some.inj (h.phase.symm.trans hp)

theorem Running.phase_ne {ph' : Phase} (h : Running s c i ph) (hp : s.phase ≠ some ph') : ph ≠ ph' :=
  fun e => hp (e ▸ h.phase)

/-- Where every job is a command word, a context whose job decodes runs that command in its turn. -/
theorem LifecycleWf.running {job : Job} (hw : LifecycleWf s) (hj : s.job c = some job)
    (hi : decodeCode job.code = .ok i) (d : Draw) (rest : List EnvEvent) :
    Running (s.given (.ctx c) d rest) c i job.phase := by
  obtain ⟨code, ph⟩ := job
  obtain ⟨w, rfl⟩ := hw.1 c _ hj
  have he : encode i = .cmd w := encode_of_decode hi
  exact ⟨rfl, by rw [State.job_given, hj, he], ⟨w, he⟩, by rw [he]; exact hi, not_isFrame_of_decode hi⟩

end Sys2Proof.Machine
end

section
/-! Who is between a FrameBegin and a FrameEnd, and the ways in which a step keeps `BusWf` (R29, R30, R47): it leaves bus
and frames alone, begins a frame on an IDLE bus, ends the frame on the bus, or raises chip-select with no frame begun. -/

namespace Sys2Proof.Machine

variable {s t : State}

/-- Who has begun a frame depends on the jobs and the passes alone. -/
theorem hasBegun_congr (hj : ∀ c, t.job c = s.job c) (hp : t.passes = s.passes) (a : Agent) :
    HasBegun t a ↔ HasBegun s a := by
  cases a <;> simp only [HasBegun, hj, hp]

/-- A context that has become IDLE has no frame begun; the others are as before. -/
theorem hasBegun_of_job_ended {c : Ctx} (hj : ∀ c', t.job c' = if c' = c then none else s.job c')
    (hp : t.passes = s.passes) (a : Agent) : HasBegun t a ↔ a ≠ .ctx c ∧ HasBegun s a := by
  cases a with
  | ctx c' => by_cases h : c' = c <;> simp [HasBegun, hj, h]
  | pass j => simp [HasBegun, hp]

/-- A context that goes on has a frame begun exactly in the phase of that name; the others are as before. -/
theorem hasBegun_of_job_set {c : Ctx} {job : Job} (hj : ∀ c', t.job c' = if c' = c then some job else s.job c')
    (hp : t.passes = s.passes) (a : Agent) :
    HasBegun t a ↔ (a = .ctx c ∧ job.phase = .frameBegun) ∨ (a ≠ .ctx c ∧ HasBegun s a) := by
  cases a with
  | ctx c' => by_cases h : c' = c <;> simp [HasBegun, hj, h]
  | pass j => simp [HasBegun, hp]

/-- A context that goes on outside its frame leaves everybody as before. -/
theorem hasBegun_same_of_job_set {c : Ctx} {job : Job}
    (hj : ∀ c', t.job c' = if c' = c then some job else s.job c') (hp : t.passes = s.passes)
    (hs : ¬ HasBegun s (.ctx c)) (ht : job.phase ≠ .frameBegun) (a : Agent) : HasBegun t a ↔ HasBegun s a := by
  rw [hasBegun_of_job_set hj hp]
  by_cases h : a = .ctx c
  · subst h; simp [ht, hs]
  · simp [h]

/-- A pass that goes on has a frame begun exactly in the phase of that name; the others are as before. -/
theorem hasBegun_of_pass_set {j : Nat} {p : Pass} (hj : ∀ c, t.job c = s.job c)
    (hp : t.passes = Sparse.write s.passes j p) (a : Agent) :
    HasBegun t a ↔ (a = .pass j ∧ p.phase = .frameBegun) ∨ (a ≠ .pass j ∧ HasBegun s a) := by
  cases a with
  | ctx c => simp [HasBegun, hj]
  | pass k => by_cases h : k = j <;> simp [HasBegun, hp, Sparse.read_write, h]

/-- A pass that has ended has no frame begun; the others are as before. -/
theorem hasBegun_of_pass_ended {j : Nat} (hj : ∀ c, t.job c = s.job c) (hp : t.passes = Sparse.clear s.passes j)
    (a : Agent) : HasBegun t a ↔ a ≠ .pass j ∧ HasBegun s a := by
  cases a with
  | ctx c => simp [HasBegun, hj]
  | pass k => by_cases h : k = j <;> simp [HasBegun, hp, Sparse.read_clear, h]

theorem Running.hasBegun_iff {c : Ctx} {i : Instr} {ph : Phase} (h : Running s c i ph) :
    HasBegun s (.ctx c) ↔ ph = .frameBegun := by
  simp [HasBegun, h.job]

theorem hasBegun_pass_iff {j : Nat} {p : Pass} (h : Sparse.read s.passes j = some p) :
    HasBegun s (.pass j) ↔ p.phase = .frameBegun := by
  simp [HasBegun, h]

theorem BusWf.not_hasBegun (h : BusWf s) (hb : s.bus = .idle) (a : Agent) : ¬ HasBegun s a := by
  simp only [BusWf, hb] at h
  exact h.2 a

theorem BusWf.idle_of_not_hasBegun (h : BusWf s) (ha : ∀ a, ¬ HasBegun s a) : s.bus = .idle := by
  cases hb : s.bus with
  | idle => rfl
  | busy owner f =>
    simp only [BusWf, hb] at h
    exact absurd ((h.2.1 owner).2 rfl) (ha owner)

/-- Only one agent has a frame begun (R47). -/
theorem BusWf.hasBegun_unique (h : BusWf s) {a b : Agent} (ha : HasBegun s a) (hb : HasBegun s b) : b = a := by
  cases hbus : s.bus with
  | idle => exact absurd ha (h.not_hasBegun hbus a)
  | busy owner f =>
    simp only [BusWf, hbus] at h
    exact ((h.2.1 b).1 hb).trans ((h.2.1 a).1 ha).symm

/-- Wherever the bus is BUSY, chip-select has been brought up. -/
theorem BusWf.csN_ne_unspec (h : BusWf s) {a : Agent} {f : FrameWord} (hb : s.bus = .busy a f) : s.csN ≠ .unspec := by
  simp only [BusWf, hb] at h
  simp [h.1]

theorem BusWf.same (h : BusWf s) (hb : t.bus = s.bus) (hc : t.csN = s.csN) (ha : ∀ a, HasBegun t a ↔ HasBegun s a) :
    BusWf t := by
  simpa only [BusWf, hb, hc, ha] using h

theorem BusWf.begun (h : BusWf s) (hi : s.bus = .idle) {a : Agent} {f : FrameWord} (hb : t.bus = .busy a f)
    (hc : t.csN = .low) (ha : ∀ b, HasBegun t b ↔ b = a ∨ b ≠ a ∧ HasBegun s b)
    (hf : ∀ j, a = .pass j → ∃ addr, f = readFrame addr) : BusWf t := by
  simp only [BusWf, hb]
  exact ⟨hc, fun b => by simp [ha, h.not_hasBegun hi], hf⟩

theorem BusWf.raised (hb : t.bus = .idle) (hc : t.csN = .high) (ha : ∀ a, ¬ HasBegun t a) : BusWf t := by
  simp only [BusWf, hb]
  exact ⟨by simp [hc], ha⟩

theorem BusWf.ended (h : BusWf s) {a : Agent} (hs : HasBegun s a) (hb : t.bus = .idle) (hc : t.csN = .high)
    (ha : ∀ b, HasBegun t b → b ≠ a ∧ HasBegun s b) : BusWf t :=
  .raised hb hc fun b hbegun => (ha b hbegun).1 (h.hasBegun_unique hs (ha b hbegun).2)

end Sys2Proof.Machine
end

section
/-! What `LifecycleWf` says of the context that has the step, and the ways in which a step keeps it (R27, R190): a command
ends or goes on with LC as it was, or a construction begins or ends. -/

namespace Sys2Proof.Machine

variable {s t : State} {c : Ctx} {i : Instr} {ph : Phase}

theorem Running.pastDecode (h : Running s c i ph) (hd : ph ≠ .decode) : PastDecode s c := ⟨_, h.job, hd⟩

/-- A command past its decode step is no construction while LC is not CONSTRUCTING, and the other way round. -/
theorem LifecycleWf.isConstruction_iff (hw : LifecycleWf s) (h : Running s c i ph) (hd : ph ≠ .decode) :
    IsConstruction i ↔ s.lc = .constructing := by
  obtain ⟨-, i', hi', hc⟩ := hw.2.1 c _ h.job hd
  obtain rfl : i = i' := Decoded.ok.inj (h.decodes.symm.trans hi')
  exact hc

theorem LifecycleWf.ne_unconstructed (hw : LifecycleWf s) (h : PastDecode s c) : s.lc ≠ .unconstructed := by
  obtain ⟨job, hj, hd⟩ := h
  exact (hw.2.1 c job hj hd).1

/-- While LC is CONSTRUCTING, only one context is past its decode step. -/
theorem LifecycleWf.alone (hw : LifecycleWf s) (hl : s.lc = .constructing) (h : PastDecode s c) {c' : Ctx}
    (h' : PastDecode s c') : c' = c := by
  obtain ⟨c₀, -, h₀⟩ := hw.2.2.1 hl
  rw [h₀ c' h', h₀ c h]

/-- A pass is in flight only while LC is READY. -/
theorem LifecycleWf.ready_of_pass (hw : LifecycleWf s) {j : Nat} {p : Pass} (hp : Sparse.read s.passes j = some p) :
    s.lc = .ready := by
  by_contra hl
  rw [hw.2.2.2 hl] at hp
  cases hp

theorem pastDecode_of_job_ended (hj : ∀ c', t.job c' = if c' = c then none else s.job c') {c' : Ctx} :
    PastDecode t c' ↔ c' ≠ c ∧ PastDecode s c' := by
  by_cases h : c' = c <;> simp [PastDecode, hj, h]

theorem pastDecode_of_job_set {job : Job} (hj : ∀ c', t.job c' = if c' = c then some job else s.job c') {c' : Ctx} :
    PastDecode t c' ↔ (c' = c ∧ job.phase ≠ .decode) ∨ (c' ≠ c ∧ PastDecode s c') := by
  by_cases h : c' = c <;> simp [PastDecode, hj, h]

/-- A step that leaves LC, the jobs and PASSES alone. -/
theorem LifecycleWf.same (hw : LifecycleWf s) (hl : t.lc = s.lc) (hj : ∀ c, t.job c = s.job c)
    (hp : s.lc ≠ .ready → t.passes = s.passes) : LifecycleWf t := by
  obtain ⟨hcmd, hpast, hone, hpass⟩ := hw
  refine ⟨fun c job h => hcmd c job (hj c ▸ h), fun c job h hd => ?_, fun h => ?_, fun h => ?_⟩
  · rw [hl]; exact hpast c job (hj c ▸ h) hd
  · simpa only [PastDecode, hj] using hone (hl ▸ h)
  · rw [hl] at h; exact (hp h).trans (hpass h)

/-- A command ends and LC is as before: it was no construction past its decode step. -/
theorem LifecycleWf.job_ended (hw : LifecycleWf s) (hl : t.lc = s.lc) (hp : t.passes = s.passes)
    (hj : ∀ c', t.job c' = if c' = c then none else s.job c') (hc : s.lc = .constructing → ¬ PastDecode s c) :
    LifecycleWf t := by
  obtain ⟨hcmd, hpast, hone, hpass⟩ := hw
  have before : ∀ c' job, t.job c' = some job → s.job c' = some job := fun c' job h => by
    rw [hj] at h
    split at h
    · cases h
    · exact h
  refine ⟨fun c' job h => hcmd c' job (before c' job h), fun c' job h hd => ?_, fun h => ?_, fun h => ?_⟩
  · rw [hl]; exact hpast c' job (before c' job h) hd
  · obtain ⟨c₀, h₀, hu⟩ := hone (hl ▸ h)
    have hne : c₀ ≠ c := fun e => hc (hl ▸ h) (e ▸ h₀)
    exact ⟨c₀, (pastDecode_of_job_ended hj).2 ⟨hne, h₀⟩, fun c' h' => hu c' ((pastDecode_of_job_ended hj).1 h').2⟩
  · rw [hp]; exact hpass (hl ▸ h)

/-- A command goes on past its decode step and LC is as before. -/
theorem LifecycleWf.goes_on (hw : LifecycleWf s) (hr : Running s c i ph) (hl : t.lc = s.lc) (hp : t.passes = s.passes)
    {ph' : Phase} (hd' : ph' ≠ .decode)
    (hj : ∀ c', t.job c' = if c' = c then some { code := encode i, phase := ph' } else s.job c')
    (h : ph ≠ .decode ∨ (s.lc = .ready ∧ ¬ IsConstruction i)) : LifecycleWf t := by
  have hlc : s.lc ≠ .unconstructed ∧ (IsConstruction i ↔ s.lc = .constructing) := by
    rcases h with hd | ⟨hready, hn⟩
    · exact ⟨hw.ne_unconstructed (hr.pastDecode hd), hw.isConstruction_iff hr hd⟩
    · simp [hready, hn]
  obtain ⟨hcmd, hpast, hone, hpass⟩ := hw
  refine ⟨fun c' job hjob => ?_, fun c' job hjob hd => ?_, fun hcon => ?_, fun hn => ?_⟩
  · rw [hj] at hjob
    split at hjob
    · cases hjob; exact hr.code
    · exact hcmd c' job hjob
  · rw [hl]
    rw [hj] at hjob
    split at hjob
    · cases hjob; exact ⟨hlc.1, i, hr.decodes, hlc.2⟩
    · exact hpast c' job hjob hd
  · rw [hl] at hcon
    have hpd : PastDecode s c := hr.pastDecode (h.resolve_right fun ⟨hready, _⟩ => by simp [hready] at hcon)
    obtain ⟨c₀, -, hu⟩ := hone hcon
    refine ⟨c, (pastDecode_of_job_set hj).2 (.inl ⟨rfl, hd'⟩), fun c' h' => ?_⟩
    rcases (pastDecode_of_job_set hj).1 h' with ⟨e, -⟩ | ⟨-, h''⟩
    · exact e
    · rw [hu c' h'', hu c hpd]
  · rw [hp]; exact hpass (hl ▸ hn)

/-- A construction's decode step: until then no command was past its own (R190 step 1). -/
theorem LifecycleWf.construction_begun (hw : LifecycleWf s) (hr : Running s c i ph) (hi : IsConstruction i)
    (hs : s.lc = .unconstructed) (hl : t.lc = .constructing) (hp : t.passes = s.passes) {ph' : Phase}
    (hd' : ph' ≠ .decode)
    (hj : ∀ c', t.job c' = if c' = c then some { code := encode i, phase := ph' } else s.job c') : LifecycleWf t := by
  have hnone : ∀ c', ¬ PastDecode s c' := fun c' h => hw.ne_unconstructed h hs
  refine ⟨fun c' job hjob => ?_, fun c' job hjob hd => ?_, fun _ => ?_, fun _ => ?_⟩
  · rw [hj] at hjob
    split at hjob
    · cases hjob; exact hr.code
    · exact hw.1 c' job hjob
  · rw [hj] at hjob
    split at hjob
    · cases hjob; exact ⟨by simp [hl], i, hr.decodes, by simp [hi, hl]⟩
    · exact absurd ⟨job, hjob, hd⟩ (hnone c')
  · refine ⟨c, (pastDecode_of_job_set hj).2 (.inl ⟨rfl, hd'⟩), fun c' h' => ?_⟩
    rcases (pastDecode_of_job_set hj).1 h' with ⟨e, -⟩ | ⟨-, h''⟩
    · exact e
    · exact absurd h'' (hnone c')
  · rw [hp]; exact hw.2.2.2 (by simp [hs])

/-- A construction's end, with success or without: it was the only command past its decode step (R190). -/
theorem LifecycleWf.construction_ended (hw : LifecycleWf s) (hs : s.lc = .constructing) (hc : PastDecode s c)
    (hl : t.lc = .unconstructed ∨ t.lc = .ready) (hp : t.passes = s.passes)
    (hj : ∀ c', t.job c' = if c' = c then none else s.job c') : LifecycleWf t := by
  have hnone : ∀ c', ¬ PastDecode t c' := fun c' h =>
    ((pastDecode_of_job_ended hj).1 h).1 (hw.alone hs hc ((pastDecode_of_job_ended hj).1 h).2)
  refine ⟨fun c' job hjob => ?_, fun c' job hjob hd => absurd ⟨job, hjob, hd⟩ (hnone c'), fun h => ?_, fun _ => ?_⟩
  · rw [hj] at hjob
    split at hjob
    · cases hjob
    · exact hw.1 c' job hjob
  · rcases hl with hl | hl <;> simp [hl] at h
  · rw [hp]; exact hw.2.2.2 (by simp [hs])

/-- A command word is presented to an IDLE context (R36). -/
theorem LifecycleWf.presented (hw : LifecycleWf s) {w : CmdWord} (hidle : s.job c = none) (hl : t.lc = s.lc)
    (hp : t.passes = s.passes)
    (hj : ∀ c', t.job c' = if c' = c then some { code := .cmd w, phase := .decode } else s.job c') : LifecycleWf t := by
  have hpast : ∀ c', PastDecode t c' ↔ PastDecode s c' := fun c' => by
    by_cases h : c' = c <;> simp [PastDecode, hj, h, hidle]
  refine ⟨fun c' job hjob => ?_, fun c' job hjob hd => ?_, fun hcon => ?_, fun hn => ?_⟩
  · rw [hj] at hjob
    split at hjob
    · cases hjob; exact ⟨w, rfl⟩
    · exact hw.1 c' job hjob
  · rw [hl]
    rw [hj] at hjob
    split at hjob
    · cases hjob; exact absurd rfl hd
    · exact hw.2.1 c' job hjob hd
  · simpa only [hpast] using hw.2.2.1 (hl ▸ hcon)
  · rw [hp]; exact hw.2.2.2 (hl ▸ hn)

/-- A fatal step of the router: every pass ends, and the commands in flight were no constructions (R223). -/
theorem LifecycleWf.became_fatal (hw : LifecycleWf s) (hs : s.lc = .ready) (hl : t.lc = .fatal) (hp : t.passes = [])
    (hj : ∀ c, t.job c = s.job c) : LifecycleWf t := by
  refine ⟨fun c job h => hw.1 c job (hj c ▸ h), fun c job h hd => ?_, fun h => ?_, fun _ => hp⟩
  · obtain ⟨-, i, hi, hc⟩ := hw.2.1 c job (hj c ▸ h) hd
    exact ⟨by simp [hl], i, hi, by simpa [hl, hs] using hc⟩
  · simp [hl] at h

/-- Nothing is in flight. -/
theorem LifecycleWf.of_nothing (hj : ∀ c, t.job c = none) (hl : t.lc ≠ .constructing) (hp : t.passes = []) :
    LifecycleWf t :=
  ⟨fun c job h => by simp [hj] at h, fun c job h => by simp [hj] at h, fun h => absurd h hl, fun _ => hp⟩

end Sys2Proof.Machine
end

section
/-! Where chip-select has been brought up: how a step keeps `ChipSelectWf` (R29, R191). -/

namespace Sys2Proof.Machine

variable {s t : State} {c : Ctx}

/-- While chip-select is not UNSPEC there is nothing to keep. -/
theorem ChipSelectWf.of_csN (h : t.csN ≠ .unspec) : ChipSelectWf t := ⟨fun _ => h, fun _ _ _ _ => h⟩

/-- Nothing relies on chip-select that did not before: no new LC relies on it, and no job that is not as before. -/
theorem ChipSelectWf.mono (hw : ChipSelectWf s) (hc : s.csN ≠ .unspec → t.csN ≠ .unspec)
    (hl : t.lc = s.lc ∨ t.lc = .unconstructed ∨ t.lc = .constructing)
    (hj : ∀ c job, t.job c = some job → s.job c = some job ∨ job.phase ≠ .frameReady ∧ job.phase ≠ .final) :
    ChipSelectWf t := by
  refine ⟨fun h => hc (hw.1 ?_), fun c job h hp => ?_⟩
  · rcases hl with hl | hl | hl
    · rwa [← hl]
    · simp [hl] at h
    · simp [hl] at h
  · rcases hj c job h with h' | ⟨h₁, h₂⟩
    · exact hc (hw.2 c job h' hp)
    · exact absurd hp (by simp [h₁, h₂])

end Sys2Proof.Machine
end

section
/-! Chip-select, bus, lifecycle and what is in flight, kept by a step of a context, of a pass, and of the machine. -/

namespace Sys2Proof.Machine

/-- Chip-select, bus, lifecycle and what is in flight agree (R27, R29, R30, R47). -/
structure Coherent (s : State) : Prop where
  bus : BusWf s
  chipSelect : ChipSelectWf s
  lifecycle : LifecycleWf s

variable {s t : State} {c : Ctx} {i : Instr} {ph : Phase}

theorem Running.pastDecode_iff (h : Running s c i ph) : PastDecode s c ↔ ph ≠ .decode := by
  simp [PastDecode, h.job]

theorem not_construction_setterOf (k : Concern) (n : Nat) (v : Bool) : ¬ IsConstruction (setterOf k n v) := by
  rintro ⟨t, h⟩
  cases t <;> cases k <;> cases h

/-- A command that ends is no construction past its decode step. -/
theorem Running.not_pastDecode (hr : Running s c i ph) (hw : LifecycleWf s) (h : ph = .decode ∨ ¬ IsConstruction i)
    (hl : s.lc = .constructing) : ¬ PastDecode s c := by
  rw [hr.pastDecode_iff]
  intro hd
  exact h.elim hd fun hn => hn ((hw.isConstruction_iff hr hd).2 hl)

/-- Only the jobs change, and a command ends that has no frame begun and is no construction past its decode step. -/
theorem Coherent.job_ended (hw : Coherent s) (hb : t.bus = s.bus) (hn : t.csN = s.csN) (hl : t.lc = s.lc)
    (hp : t.passes = s.passes) (hj : ∀ c', t.job c' = if c' = c then none else s.job c')
    (hbegun : ¬ HasBegun s (.ctx c)) (hc : s.lc = .constructing → ¬ PastDecode s c) : Coherent t where
  bus := hw.bus.same hb hn fun a => by
    rw [hasBegun_of_job_ended hj hp]
    exact ⟨And.right, fun h => ⟨fun e => hbegun (e ▸ h), h⟩⟩
  chipSelect := hw.chipSelect.mono (by simp [hn]) (.inl hl) fun c' job h => by
    rw [hj] at h
    split at h
    · cases h
    · exact .inl h
  lifecycle := hw.lifecycle.job_ended hl hp hj hc

/-- A frame's end with the end of its command, which is no construction. -/
theorem Coherent.frame_ended (hw : Coherent s) (hr : Running s c i .frameBegun) (hi : ¬ IsConstruction i)
    (hb : t.bus = .idle) (hn : t.csN = .high) (hl : t.lc = s.lc) (hp : t.passes = s.passes)
    (hj : ∀ c', t.job c' = if c' = c then none else s.job c') : Coherent t where
  bus := hw.bus.ended (hr.hasBegun_iff.2 rfl) hb hn fun b => (hasBegun_of_job_ended hj hp b).1
  chipSelect := .of_csN (by simp [hn])
  lifecycle := hw.lifecycle.job_ended hl hp hj (hr.not_pastDecode hw.lifecycle (.inr hi))

/-- A command goes on, and begins and ends no frame. -/
theorem Coherent.goes_on (hw : Coherent s) (hr : Running s c i ph) (hb : t.bus = s.bus) (hn : t.csN = s.csN)
    (hl : t.lc = s.lc) (hp : t.passes = s.passes) {ph' : Phase}
    (hj : ∀ c', t.job c' = if c' = c then some { code := encode i, phase := ph' } else s.job c')
    (hcs : s.csN ≠ .unspec) (hph : ph ≠ .frameBegun) (hph' : ph' ≠ .decode ∧ ph' ≠ .frameBegun)
    (h : ph ≠ .decode ∨ (s.lc = .ready ∧ ¬ IsConstruction i)) : Coherent t where
  bus := hw.bus.same hb hn (hasBegun_same_of_job_set hj hp (mt hr.hasBegun_iff.1 hph) hph'.2)
  chipSelect := .of_csN (by rwa [hn])
  lifecycle := hw.lifecycle.goes_on hr hl hp hph'.1 hj h

/-- While a construction is past its decode step and has no frame begun, nobody has: it is the only command past its
decode step, and no pass is in flight. -/
theorem Coherent.no_frame_while_constructing (hw : Coherent s) (hr : Running s c i ph) (hi : IsConstruction i)
    (hd : ph ≠ .decode) (hf : ph ≠ .frameBegun) (a : Agent) : ¬ HasBegun s a := by
  have hl : s.lc = .constructing := (hw.lifecycle.isConstruction_iff hr hd).1 hi
  cases a with
  | ctx c' =>
    rintro ⟨job, hj, hb⟩
    have hc' : c' = c := hw.lifecycle.alone hl (hr.pastDecode hd) ⟨job, hj, by simp [hb]⟩
    subst hc'
    exact hf (hr.hasBegun_iff.1 ⟨job, hj, hb⟩)
  | pass j =>
    rintro ⟨p, hp, -⟩
    have hready : s.lc = .ready := hw.lifecycle.ready_of_pass hp
    simp [hl] at hready

/-- A construction ends outside its frame, in UNCONSTRUCTED, or in READY with chip-select brought up (R190). -/
theorem Coherent.construction_ended (hw : Coherent s) (hr : Running s c i ph) (hi : IsConstruction i)
    (hph : ph ≠ .decode ∧ ph ≠ .frameBegun) (hb : t.bus = s.bus) (hn : t.csN = s.csN)
    (hl : t.lc = .unconstructed ∨ t.lc = .ready ∧ s.csN ≠ .unspec) (hp : t.passes = s.passes)
    (hj : ∀ c', t.job c' = if c' = c then none else s.job c') : Coherent t where
  bus := hw.bus.same hb hn fun a => by
    rw [hasBegun_of_job_ended hj hp]
    simp [hw.no_frame_while_constructing hr hi hph.1 hph.2]
  chipSelect := by
    rcases hl with hl | ⟨-, hcs⟩
    · refine hw.chipSelect.mono (by simp [hn]) (.inr (.inl hl)) fun c' job h => ?_
      rw [hj] at h
      split at h
      · cases h
      · exact .inl h
    · exact .of_csN (by rwa [hn])
  lifecycle := hw.lifecycle.construction_ended ((hw.lifecycle.isConstruction_iff hr hph.1).1 hi) (hr.pastDecode hph.1)
    (hl.imp_right And.left) hp hj

/-- Where a FrameBegin comes: a frame that a command begins in its decode step is not a construction's. -/
theorem Running.begins (hr : Running s c i ph)
    (h : (s.phase = some .decode ∧ ¬ IsConstruction i ∧ (s.lc = .ready ∨ IsFrame i)) ∨ s.phase = some .frameReady) :
    (ph ≠ .decode ∨ s.lc = .ready ∧ ¬ IsConstruction i) ∧ ph ≠ .frameBegun := by
  rcases h with ⟨hp, hn, hl⟩ | hp <;> obtain rfl := hr.phase_eq hp
  · exact ⟨.inr ⟨hl.resolve_right hr.not_frame, hn⟩, by simp⟩
  · exact ⟨.inl (by simp), by simp⟩

theorem State.job_answered_of {x : State} (hx : ∀ c', x.job c' = s.job c') (st : Byte) (r : BitVec 16) (c' : Ctx) :
    (x.answered c st r).job c' = if c' = c then none else s.job c' := by
  rw [State.job_answered, hx]

theorem State.job_waiting_of {x : State} (hx : ∀ c', x.job c' = s.job c') (c' : Ctx) :
    (x.waiting c i ph).job c' = if c' = c then some { code := encode i, phase := ph } else s.job c' := by
  rw [State.job_waiting, hx]

/-- A step of a context's command keeps the agreement. -/
theorem CtxEffect.coherent (h : CtxEffect c i s t) (hr : Running s c i ph) (hw : Coherent s) : Coherent t := by
  cases h with
  | idle => exact hw
  | answer st r hc hp =>
    exact hw.job_ended (by simp) (by simp) (by simp) (by simp) (State.job_answered_of (fun _ => rfl) st r)
      (mt hr.hasBegun_iff.1 (hr.phase_ne hp)) (hr.not_pastDecode hw.lifecycle (hc.imp_left hr.phase_eq))
  | goOn ph' hd hl hc hph =>
    obtain rfl := hr.phase_eq hd
    exact hw.goes_on hr (by simp) (by simp) (by simp) (by simp) (State.job_waiting_of fun _ => rfl)
      (hw.chipSelect.1 (.inl hl)) (by simp) (by rcases hph with rfl | rfl | ⟨b, rfl⟩ <;> simp) (.inr ⟨hl, hc⟩)
  | write k n v b b' hi hn hp =>
    obtain rfl := hr.phase_eq hp
    exact hw.job_ended (by simp) (by simp) (by simp) (by simp)
      (State.job_answered_of (x := { s with sr := s.sr.set k (portFor n) b' }) (State.job_congr rfl rfl) _ _)
      (by simp [hr.hasBegun_iff]) (hr.not_pastDecode hw.lifecycle (.inr (hi ▸ not_construction_setterOf k n v)))
  | begins f hb hd =>
    have hj := State.job_waiting_of (c := c) (i := i) (ph := .frameBegun) (State.job_framed s (.ctx c) f)
    refine ⟨hw.bus.begun hb (a := .ctx c) (f := f) (by simp) (by simp) (fun b => ?_) (by simp), .of_csN (by simp), ?_⟩
    · simpa using hasBegun_of_job_set hj (by simp) b
    · exact hw.lifecycle.goes_on hr (by simp) (by simp) (by simp) hj (hr.begins hd).1
  | conflict a f hb hd =>
    have hc := hw.goes_on (t := s.busConflict.waiting c i .stuck) hr (by simp) (by simp) (by simp) (by simp)
      (State.job_waiting_of (State.job_busConflict s)) (hw.bus.csN_ne_unspec hb) (hr.begins hd).2 (by simp)
    exact hc (hr.begins hd).1
  | ends st r hp hc =>
    obtain rfl := hr.phase_eq hp
    exact hw.frame_ended hr hc (by simp) (by simp) (by simp) (by simp) (State.job_answered_of (State.job_frameEnd s) st r)
  | tiedOk hi hp =>
    obtain rfl := hr.phase_eq hp
    have hj := State.job_waiting_of (s := s) (c := c) (i := i) (ph := .final) (State.job_frameEnd s)
    refine ⟨hw.bus.ended (hr.hasBegun_iff.2 rfl) (by simp) (by simp) fun b hb => ?_, .of_csN (by simp), ?_⟩
    · simpa [hasBegun_of_job_set hj] using hb
    · exact hw.lifecycle.goes_on hr (by simp) (by simp) (by simp) hj (.inl (by simp))
  | tiedFail hi hp =>
    obtain rfl := hr.phase_eq hp
    have hj := State.job_answered_of (s := s) (c := c) (x := { s.frameEnd with lc := .unconstructed })
      (State.job_congr rfl rfl) 0x03 0
    have hl : s.lc = .constructing := (hw.lifecycle.isConstruction_iff hr (by simp)).1 ⟨.tied, hi⟩
    refine ⟨hw.bus.ended (hr.hasBegun_iff.2 rfl) (by simp) (by simp) fun b => ?_, .of_csN (by simp), ?_⟩
    · exact (hasBegun_of_job_ended hj (by simp) b).1
    · exact hw.lifecycle.construction_ended hl (hr.pastDecode (by simp)) (by simp) (by simp) hj
  | joins u lid hp hl h0 hi hc =>
    obtain rfl := hr.phase_eq hp
    exact hw.job_ended (by simp) (by simp) (by simp) (by simp) (State.job_answered_of (State.job_setMembers s u _) _ _)
      (by simp [hr.hasBegun_iff]) (hr.not_pastDecode hw.lifecycle (.inr hc))
  | leaves u lid hp hl hi hc =>
    obtain rfl := hr.phase_eq hp
    exact hw.job_ended (by simp) (by simp) (by simp) (by simp) (State.job_answered_of (State.job_setMembers s u _) _ _)
      (by simp [hr.hasBegun_iff]) (hr.not_pastDecode hw.lifecycle (.inr hc))
  | constructs top hi hd hl =>
    obtain rfl := hr.phase_eq hd
    have hj := State.job_waiting_of (s := s) (c := c) (i := i) (ph := .bringUp) (x := { s with lc := .constructing })
      (State.job_congr rfl rfl)
    refine ⟨hw.bus.same (by simp) (by simp) ?_, hw.chipSelect.mono (by simp) (by simp) fun c' job h => ?_, ?_⟩
    · exact hasBegun_same_of_job_set hj (by simp) (by simp [hr.hasBegun_iff]) (by simp)
    · rw [hj] at h
      split at h
      · cases h; simp
      · exact .inl h
    · exact hw.lifecycle.construction_begun hr ⟨top, hi⟩ hl (by simp) (by simp) (by simp) hj
  | bringUpOk top hi hp ph' hph =>
    obtain rfl := hr.phase_eq hp
    have hj := State.job_waiting_of (s := s) (c := c) (i := i) (ph := ph')
      (x := { s with csN := .high, trace := s.trace ++ [.bringUp c] }) (State.job_congr rfl rfl)
    have hph' : ph' ≠ .decode ∧ ph' ≠ .frameBegun := by rcases hph with rfl | rfl <;> simp
    have hnone := hw.no_frame_while_constructing hr ⟨top, hi⟩ (by simp) (by simp)
    refine ⟨.raised (by simpa using hw.bus.idle_of_not_hasBegun hnone) (by simp) fun a => ?_, .of_csN (by simp), ?_⟩
    · rw [hasBegun_of_job_set hj (by simp)]
      simp [hnone, hph']
    · exact hw.lifecycle.goes_on hr (by simp) (by simp) hph'.1 hj (.inl (by simp))
  | bringUpFail top hi hp =>
    obtain rfl := hr.phase_eq hp
    exact hw.construction_ended hr ⟨top, hi⟩ (by simp) (by simp) (by simp) (by simp) (by simp)
      (State.job_answered_of (x := { s with lc := .unconstructed, trace := s.trace ++ [.bringUp c] })
        (State.job_congr rfl rfl) _ _)
  | finishes top hi hp =>
    obtain rfl := hr.phase_eq hp
    have hcs : s.csN ≠ .unspec := hw.chipSelect.2 c _ hr.job (.inr rfl)
    exact hw.construction_ended hr ⟨top, hi⟩ (by simp) (by simp) (by simp) (by simpa using hcs) (by simp)
      (State.job_answered_of (x := { s with lc := .ready, topo := top }) (State.job_congr rfl rfl) _ _)

end Sys2Proof.Machine
end

section
/-! The same agreement, kept by a step of a pass and by the events of the environment. -/

namespace Sys2Proof.Machine

variable {s t : State} {j : Nat} {p : Pass}

theorem Pass.scan_phase (p : Pass) : p.scan.phase = p.phase := by
  simp only [Pass.scan]
  split <;> rfl

/-- A dispatch makes an IDLE listener context where there was none, and so changes no job (R226). -/
theorem State.job_new_listener (hn : Sparse.read s.listeners j = none) (hh : t.hosts = s.hosts)
    (hl : t.listeners = Sparse.write s.listeners j none) (c : Ctx) : t.job c = s.job c := by
  cases c with
  | host k => simp only [State.job, hh]
  | listener k =>
    simp only [State.job, hl, Sparse.read_write]
    split
    · next e => rw [e, hn]; rfl
    · rfl

/-- A pass of a state of coherent dispatches that awaits no DONE has no listener context. -/
theorem DispatchWf.no_listener (hd : DispatchWf s) (hp : Sparse.read s.passes j = some p)
    (h : ∀ lid, p.phase ≠ .awaitDone lid) : Sparse.read s.listeners j = none := by
  by_contra hl
  obtain ⟨lid, hlid⟩ := (hd j p hp).1.1 (Option.isSome_iff_ne_none.2 hl)
  exact h lid hlid

/-- While LC is READY, a pass that has no frame begun goes on or starts, outside any frame. -/
theorem Coherent.pass_goes_on (hw : Coherent s) (hs : s.lc = .ready) (hb : t.bus = s.bus) (hn : t.csN = s.csN)
    (hl : t.lc = s.lc) (hp : t.passes = Sparse.write s.passes j p) (hj : ∀ c, t.job c = s.job c)
    (hbefore : ¬ HasBegun s (.pass j)) (hafter : p.phase ≠ .frameBegun) : Coherent t where
  bus := hw.bus.same hb hn fun a => by
    rw [hasBegun_of_pass_set hj hp]
    by_cases h : a = .pass j
    · subst h; simp [hafter, hbefore]
    · simp [h]
  chipSelect := .of_csN (by rw [hn]; exact hw.chipSelect.1 (.inl hs))
  lifecycle := hw.lifecycle.same hl hj fun h => absurd hs h

/-- The end of a pass's frame, after which the pass goes on (R213). -/
theorem Coherent.pass_frame_ended (hw : Coherent s) (hs : s.lc = .ready) (hb : t.bus = .idle) (hn : t.csN = .high)
    (hl : t.lc = s.lc) (hp : t.passes = Sparse.write s.passes j p) (hj : ∀ c, t.job c = s.job c)
    (hbefore : HasBegun s (.pass j)) (hafter : p.phase ≠ .frameBegun) : Coherent t where
  bus := hw.bus.ended hbefore hb hn fun b => by simp [hasBegun_of_pass_set hj hp, hafter]
  chipSelect := .of_csN (by simp [hn])
  lifecycle := hw.lifecycle.same hl hj fun h => absurd hs h

/-- A step of a pass keeps the agreement. -/
theorem PassEffect.coherent (h : PassEffect j p s t) (hp : Sparse.read s.passes j = some p) (hd : DispatchWf s)
    (hw : Coherent s) : Coherent t := by
  have hs : s.lc = .ready := hw.lifecycle.ready_of_pass hp
  have hbegun : HasBegun s (.pass j) ↔ p.phase = .frameBegun := hasBegun_pass_iff hp
  cases h with
  | idle => exact hw
  | begins a ha hb hphase hstage =>
    have hj : ∀ c, ((s.framed (.pass j) (readFrame a)).setPass j { p with phase := .frameBegun }).job c = s.job c := by
      simp
    refine ⟨hw.bus.begun hb (a := .pass j) rfl rfl (fun b => ?_) fun _ _ => ⟨a, rfl⟩, .of_csN (by simp), ?_⟩
    · simpa using hasBegun_of_pass_set hj rfl b
    · exact hw.lifecycle.same rfl hj fun h => absurd hs h
  | conflict a f hb hphase hstage =>
    exact hw.pass_goes_on hs rfl rfl rfl rfl (by simp) (by simp [hbegun, hphase]) (by simp)
  | flag r hphase hstage =>
    exact hw.pass_frame_ended hs rfl rfl rfl rfl (by simp) (hbegun.2 hphase) (by simp)
  | capture r hphase hstage =>
    exact hw.pass_frame_ended hs rfl rfl rfl rfl (by simp) (hbegun.2 hphase) (by simp)
  | fails hphase =>
    have hj : ∀ c, s.frameEnd.routerFatal.job c = s.job c := by simp
    refine ⟨hw.bus.ended (hbegun.2 hphase) rfl rfl fun b hb => ?_, .of_csN (by simp), ?_⟩
    · cases b with
      | ctx c => exact ⟨by simp, by simpa [HasBegun] using hb⟩
      | pass k => simp [HasBegun] at hb
    · exact hw.lifecycle.became_fatal hs rfl rfl hj
  | scans hphase hstage =>
    exact hw.pass_goes_on hs rfl rfl rfl rfl (by simp) (by simp [hbegun, hphase]) (by simp [p.scan_phase, hphase])
  | takes u after hu hphase hl =>
    exact hw.pass_goes_on hs (by simp) (by simp) (by simp) (by simp; rfl) (by simp) (by simp [hbegun, hphase]) (by simp)
  | dispatches u after hu hphase lid hm =>
    have hno : Sparse.read s.listeners j = none := hd.no_listener hp (by simp [hphase])
    exact hw.pass_goes_on hs rfl rfl rfl rfl (State.job_new_listener hno rfl rfl) (by simp [hbegun, hphase]) (by simp)
  | releases u after hu hphase hr =>
    exact hw.pass_goes_on hs (by simp) (by simp) (by simp) (by simp; rfl) (by simp) (by simp [hbegun, hphase]) (by simp)
  | nextPort P queue hq hphase hstage =>
    exact hw.pass_goes_on hs rfl rfl rfl rfl (by simp) (by simp [hbegun, hphase]) (by simp)
  | ends hq hphase hstage =>
    have hj : ∀ c, (s.endPass j).job c = s.job c := by simp
    refine ⟨hw.bus.same rfl rfl fun a => ?_, .of_csN (hw.chipSelect.1 (.inl hs)), ?_⟩
    · rw [hasBegun_of_pass_ended hj rfl]
      refine ⟨And.right, fun h => ⟨?_, h⟩⟩
      rintro rfl
      simp [hbegun, hphase] at h
    · exact hw.lifecycle.same rfl hj fun h => absurd hs h

/-- The phase of a pass after a DONE is no frame's, if it was none before. -/
theorem Pass.afterDone_phase (h : p.phase ≠ .frameBegun) : p.afterDone.phase ≠ .frameBegun := by
  simp only [Pass.afterDone]
  split
  · simp
  · exact h

/-- A context that accepts a word is IDLE (R36). -/
theorem State.job_of_accepts {c : Ctx} (h : s.accepts c = true) : s.job c = none := by
  cases c with
  | host k => simpa [State.accepts, State.job] using (Bool.and_eq_true_iff.1 h).2
  | listener k =>
    simp only [State.accepts] at h
    split at h
    · next hl => simp [State.job, hl]
    · cases h

/-- A step of the machine keeps the agreement. -/
theorem StepEffect.coherent (h : StepEffect s t) (hf : NamesFresh s) (hd : DispatchWf s) (hw : Coherent s) :
    Coherent t := by
  have unchanged : ∀ {x : State}, x.bus = s.bus → x.csN = s.csN → x.lc = s.lc → (∀ c, x.job c = s.job c) →
      x.passes = s.passes → Coherent x := fun hb hn hl hj hp =>
    ⟨hw.bus.same hb hn (hasBegun_congr hj hp), hw.chipSelect.mono (by simp [hn]) (.inl hl) (by simp +contextual [hj]),
      hw.lifecycle.same hl hj fun _ => hp⟩
  cases h with
  | quiet => exact hw
  | dropped e rest he hr => exact unchanged rfl rfl rfl (State.job_congr rfl rfl) rfl
  | noTurn a d rest he => exact unchanged rfl rfl rfl (State.job_congr rfl rfl) rfl
  | command c w rest he ha =>
    have hidle : s.job c = none := State.job_of_accepts ha
    have hj := fun c' => State.job_setJob (s := { s with env := rest }) c c' { code := .cmd w, phase := .decode }
    refine ⟨hw.bus.same (by simp) (by simp) ?_, hw.chipSelect.mono (by simp) (by simp) fun c' job h => ?_, ?_⟩
    · exact hasBegun_same_of_job_set hj (by simp) (by simp [HasBegun, hidle]) (by simp)
    · rw [hj] at h
      split at h
      · cases h; simp
      · exact .inl h
    · exact hw.lifecycle.presented hidle (by simp) (by simp) hj
  | run c d rest job i t he hj hi ht =>
    have hg : Coherent (s.given (.ctx c) d rest) := unchanged rfl rfl rfl (State.job_congr rfl rfl) rfl
    exact ht.coherent (hw.lifecycle.running hj hi d rest) hg
  | illegal c d rest job w r he hj hcode hr st hst =>
    have hdec : job.phase = .decode := by
      by_contra hd
      obtain ⟨-, i, hi, -⟩ := hw.lifecycle.2.1 c job hj hd
      rw [hcode] at hi
      cases hr.symm.trans hi
    exact hw.job_ended (by simp) (by simp) (by simp) (by simp)
      (State.job_answered_of (x := s.given (.ctx c) d rest) (State.job_congr rfl rfl) st 0) (by simp [HasBegun, hj, hdec])
      fun _ => by simp [PastDecode, hj, hdec]
  | pass j d rest p t he hp ht =>
    exact ht.coherent hp hd (unchanged rfl rfl rfl (State.job_congr rfl rfl) rfl)
  | edge x rest P queue he hl =>
    refine hw.pass_goes_on hl rfl rfl rfl rfl (State.job_congr rfl rfl) ?_ (by simp [Pass.fresh])
    simp [HasBegun, (hf s.nextPass le_rfl).1]
  | done j rest p he hl hp =>
    have hphase : p.phase ≠ .frameBegun := fun h => by
      simp [hd.no_listener hp (by simp [h])] at hl
    exact hw.pass_goes_on (hw.lifecycle.ready_of_pass hp) rfl rfl rfl rfl (State.job_clear_listener hl rfl rfl)
      (by rwa [hasBegun_pass_iff hp]) (Pass.afterDone_phase hphase)
  | doneLate j rest he hl hp => exact unchanged rfl rfl rfl (State.job_clear_listener hl rfl rfl) rfl
  | reset landed rest he =>
    have hj := State.job_blockReset { s with env := rest } landed
    refine ⟨⟨by simp [blockReset, State.reset], fun a => ?_⟩, ⟨by simp [blockReset, State.reset], by simp [hj]⟩, ?_⟩
    · cases a with
      | ctx c => simp [HasBegun, hj]
      | pass k => simp [HasBegun, blockReset, State.reset]
    · exact .of_nothing hj (by simp [blockReset, State.reset]) rfl

/-- Settles O50: every effect of a step keeps the agreement. -/
theorem chipSelectAndLifecycleStayCoherent : Obligations.ChipSelectAndLifecycleStayCoherent := by
  intro s t hf hd hbus hcs hlife hstep
  have hw : Coherent t := (step_effect hstep).coherent hf hd ⟨hbus, hcs, hlife⟩
  exact ⟨hw.bus, hw.chipSelect, hw.lifecycle⟩

end Sys2Proof.Machine
end

section
/-! What a step of a context's command leaves alone of the sets, the locks and the passes, and how it writes a set
(R25, R36, R176). -/

namespace Sys2Proof.Machine

variable {s t : State} {c : Ctx} {i : Instr}

/-- What a command puts in place of a set's members `l`: an add of an identifier that is not null, or a remove (R171 to
R174). -/
def ListenerWrite (l l' : List Lid) : Prop := (∃ lid, lid ≠ 0 ∧ l' = lidAdd l lid) ∨ ∃ lid, l' = lidRemove l lid

theorem ListenerWrite.lidSetWf {l l' : List Lid} (h : ListenerWrite l l') (hw : lidSetWf l = true) :
    lidSetWf l' = true := by
  rcases h with ⟨lid, h0, rfl⟩ | ⟨lid, rfl⟩
  · exact lidSetWf_add h0 hw
  · exact lidSetWf_remove lid hw

/-- An end of a command leaves every listener context where it is (R226). -/
theorem State.listener_isSome_answered (s : State) (c : Ctx) (st : Byte) (r : BitVec 16) (k : Nat) :
    (Sparse.read (s.answered c st r).listeners k).isSome = (Sparse.read s.listeners k).isSome := by
  cases c with
  | host n => rfl
  | listener j =>
    simp only [State.answered, State.endJob]
    cases hj : Sparse.read s.listeners j with
    | none => rfl
    | some o => by_cases hk : k = j <;> simp [Sparse.read_write, hk, hj]

/-- The listener context of a BUSY context is there (R226). -/
theorem State.listener_isSome_of_job {j : Nat} {job : Job} (h : s.job (.listener j) = some job) :
    (Sparse.read s.listeners j).isSome = true := by
  cases hj : Sparse.read s.listeners j with
  | none => simp [State.job, hj] at h
  | some o => rfl

/-- A BUSY context that goes on leaves every listener context where it is (R226). -/
theorem State.listener_isSome_setJob {job : Job} (hc : ∀ j, c = .listener j → (Sparse.read s.listeners j).isSome = true)
    (k : Nat) : (Sparse.read (s.setJob c job).listeners k).isSome = (Sparse.read s.listeners k).isSome := by
  cases c with
  | host n => rfl
  | listener j => by_cases hk : k = j <;> simp [Sparse.read_write, hk, hc]

/-- A listener context that accepts a word is there (R226). -/
theorem State.listener_isSome_of_accepts {j : Nat} (h : s.accepts (.listener j) = true) :
    (Sparse.read s.listeners j).isSome = true := by
  cases hj : Sparse.read s.listeners j with
  | none => simp [State.accepts, hj] at h
  | some o => rfl

theorem CtxEffect.passes_eq (h : CtxEffect c i s t) : t.passes = s.passes := by cases h <;> simp

theorem CtxEffect.nextPass_eq (h : CtxEffect c i s t) : t.nextPass = s.nextPass := by cases h <;> simp

theorem CtxEffect.lock_eq (h : CtxEffect c i s t) (u : SetId) : t.lock u = s.lock u :=
  State.lock_congr (by cases h <;> simp) (by cases h <;> simp) u

theorem CtxEffect.listener_isSome (h : CtxEffect c i s t) {job : Job} (hj : s.job c = some job) (k : Nat) :
    (Sparse.read t.listeners k).isSome = (Sparse.read s.listeners k).isSome := by
  have hc : ∀ j, c = .listener j → (Sparse.read s.listeners j).isSome = true := by
    rintro j rfl
    exact State.listener_isSome_of_job hj
  cases h with
  | idle => rfl
  | goOn | begins | conflict | tiedOk | constructs | bringUpOk => exact State.listener_isSome_setJob (by simpa using hc) k
  | _ => exact (State.listener_isSome_answered _ _ _ _ k).trans (by simp)

/-- A command changes a set only while its lock is FREE, as the add or the remove on that set that it is. -/
theorem CtxEffect.members_cases (h : CtxEffect c i s t) (u : SetId) :
    t.members u = s.members u ∨
      (s.phase = some .waitLock ∧ s.lock u = .free ∧ ListenerCommandOn u i ∧ ListenerWrite (s.members u) (t.members u)) := by
  cases h with
  | joins u' lid hp hl h0 hi =>
    by_cases hu : u = u'
    · subst hu
      exact .inr ⟨hp, hl, hi, .inl ⟨lid, h0, by simp [State.members_setMembers]⟩⟩
    · exact .inl (by simp [State.members_setMembers, hu])
  | leaves u' lid hp hl hi =>
    by_cases hu : u = u'
    · subst hu
      exact .inr ⟨hp, hl, hi, .inr ⟨lid, by simp [State.members_setMembers]⟩⟩
    · exact .inl (by simp [State.members_setMembers, hu])
  | _ => exact .inl (State.members_congr (by simp) (by simp) u)

/-- A step of a pass changes no set (R221). -/
theorem PassEffect.members_eq {j : Nat} {p : Pass} (h : PassEffect j p s t) (u : SetId) : t.members u = s.members u :=
  State.members_congr (by cases h <;> simp) (by cases h <;> simp) u

/-- It is the turn of a context past its decode step, whose command is an add or a remove on set `u` (R176). -/
def SetWriteTurn (s : State) (u : SetId) : Prop :=
  ∃ c d rest job i, TurnComes s (.ctx c) d rest ∧ s.job c = some job ∧ job.phase = .waitLock ∧
    decodeCode job.code = .ok i ∧ ListenerCommandOn u i

/-- All a step can do to a set: nothing, a reset, or in the turn of an add or a remove its write, while the lock is FREE. -/
theorem StepEffect.members_cases (h : StepEffect s t) (u : SetId) :
    t.members u = s.members u ∨ (ResetComes s ∧ t.members u = []) ∨
      (s.lock u = .free ∧ SetWriteTurn s u ∧ ListenerWrite (s.members u) (t.members u)) := by
  cases h with
  | run c d rest job i t he hj hi ht =>
    rcases ht.members_cases u with heq | ⟨hp, hl, hu, hwrite⟩
    · exact .inl (by simpa using heq)
    · have hphase : job.phase = .waitLock := Option.some.inj ((State.phase_given hj d rest).symm.trans hp)
      exact .inr (.inr ⟨by simpa using hl, ⟨c, d, rest, job, i, he, hj, hphase, hi, hu⟩, by simpa using hwrite⟩)
  | pass j d rest p t he hp ht => exact .inl (by simpa using ht.members_eq u)
  | reset landed rest he => exact .inr (.inl ⟨⟨landed, rest, he⟩, by cases u <;> simp [State.members, blockReset, State.reset]⟩)
  | _ => exact .inl (State.members_congr (by simp [State.spawn]) (by simp [State.spawn]) u)

/-- Settles O47: a write of a set is an add of a member that is not null, or a remove. -/
theorem listenerSetsStaySets : Obligations.ListenerSetsStaySets := by
  intro s t hw hstep u
  rcases (step_effect hstep).members_cases u with heq | ⟨-, hnil⟩ | ⟨-, -, hwrite⟩
  · rw [heq]; exact hw u
  · rw [hnil]; rfl
  · exact hwrite.lidSetWf (hw u)

/-- Settles O54: the writers of a set, and the state of its lock, are those of `StepEffect.members_cases`. -/
theorem setsChangeOnlyWhileUnlocked : Obligations.SetsChangeOnlyWhileUnlocked := by
  intro s t u hstep hne
  rcases (step_effect hstep).members_cases u with heq | ⟨hreset, -⟩ | ⟨hfree, hturn, -⟩
  · exact absurd heq hne
  · exact .inl hreset
  · exact .inr ⟨hfree, hturn⟩

end Sys2Proof.Machine
end

section
/-! Names, locks and dispatches (R32, R211, R215, R216, R219, R225): the ways in which a step keeps `NamesFresh`, `LocksWf`
and `DispatchWf`, and that every step does. -/

namespace Sys2Proof.Machine

variable {s t : State} {j : Nat} {p : Pass}

-- ---- names ----

/-- A pass in flight or a listener context has the name `j`. -/
def NameInUse (s : State) (j : Nat) : Prop := Sparse.read s.passes j ≠ none ∨ Sparse.read s.listeners j ≠ none

theorem namesFresh_iff : NamesFresh s ↔ ∀ j, NameInUse s j → j < s.nextPass := by
  simp only [NamesFresh, NameInUse]
  grind

/-- No name comes into use, and the next name is no earlier one. -/
theorem NamesFresh.mono (hw : NamesFresh s) (hn : s.nextPass ≤ t.nextPass) (h : ∀ j, NameInUse t j → NameInUse s j) :
    NamesFresh t :=
  namesFresh_iff.2 fun j hj => (namesFresh_iff.1 hw j (h j hj)).trans_le hn

-- ---- inside and outside an iteration ----

/-- A pass that neither iterates over a set nor awaits a DONE (R215, R219). -/
def Pass.outside (p : Pass) : Prop := p.phase ≠ .iterating ∧ ∀ lid, p.phase ≠ .awaitDone lid

theorem Pass.outside.not_iterates (h : p.outside) (u : SetId) : ¬ p.iterates u := by
  rintro ⟨hp | ⟨lid, hp⟩, -⟩
  · exact h.1 hp
  · exact h.2 lid hp

theorem Pass.outside.of_ready (h : p.phase = .ready) : p.outside := by simp [Pass.outside, h]

theorem Pass.outside.of_frameBegun (h : p.phase = .frameBegun) : p.outside := by simp [Pass.outside, h]

/-- Between taking and releasing a lock, a pass iterates over the set it stands at and over no other (R216). -/
theorem Pass.iterates_iff_of_atSet {u : SetId} {after : Stage} (hu : p.atSet u after) {p' : Pass}
    (hs : p'.stage = p.stage) (hpin : p'.pin = p.pin) (hp : p'.phase = .iterating ∨ ∃ lid, p'.phase = .awaitDone lid)
    (v : SetId) : p'.iterates v ↔ v = u := by
  rcases hu with ⟨rfl, hstage, -⟩ | ⟨rfl, hstage, -⟩ <;> cases v <;>
    simp only [Pass.iterates, and_iff_right hp, hs, hpin, hstage] <;> simp [eq_comm]

-- ---- locks ----

theorem LocksWf.congr (hw : LocksWf s) (hl : ∀ u, t.lock u = s.lock u) (hp : t.passes = s.passes) : LocksWf t := by
  simpa only [LocksWf, hl, hp] using hw

/-- Pass `j` is written, and the locks of the other passes are as before. -/
theorem LocksWf.pass_set (hw : LocksWf s) (hp : t.passes = Sparse.write s.passes j p)
    (hother : ∀ u k, k ≠ j → (t.lock u = .held k ↔ s.lock u = .held k))
    (hown : ∀ u, t.lock u = .held j ↔ p.iterates u) : LocksWf t := by
  intro u k
  by_cases hk : k = j
  · subst hk
    simp [hp, hown]
  · rw [hother u k hk, hw u k, hp, Sparse.read_write_other _ _ hk]

/-- Pass `j` ends, and it held no lock. -/
theorem LocksWf.pass_ended (hw : LocksWf s) (hp : t.passes = Sparse.clear s.passes j) (hk : ∀ u, t.lock u = s.lock u)
    (hfree : ∀ u, s.lock u ≠ .held j) : LocksWf t := by
  intro u k
  rw [hk, hp]
  by_cases e : k = j
  · subst e
    simp [Sparse.read_clear, hfree]
  · simp only [Sparse.read_clear, if_neg e]
    exact hw u k

/-- The locks that pass `j` holds are those of the sets that it iterates over. -/
theorem LocksWf.held_iff (hw : LocksWf s) (hp : Sparse.read s.passes j = some p) (u : SetId) :
    s.lock u = .held j ↔ p.iterates u := by
  simp [hw u j, hp]

/-- A pass outside any iteration holds no lock. -/
theorem LocksWf.not_held (hw : LocksWf s) (hp : Sparse.read s.passes j = some p) (h : p.outside) (u : SetId) :
    s.lock u ≠ .held j := mt (hw.held_iff hp u).1 (h.not_iterates u)

-- ---- dispatches ----

/-- `DispatchWf` for the one pass `j`, in state `p`. -/
def PassDispatchWf (s : State) (j : Nat) (p : Pass) : Prop :=
  ((Sparse.read s.listeners j).isSome ↔ ∃ lid, p.phase = .awaitDone lid) ∧
    (∀ lid, p.phase = .awaitDone lid → lid ∈ p.rem) ∧
    (∀ u, p.iterates u → ∀ lid ∈ p.rem, lid ∈ s.members u)

theorem dispatchWf_iff : DispatchWf s ↔ ∀ j p, Sparse.read s.passes j = some p → PassDispatchWf s j p := Iff.rfl

/-- A pass outside any iteration has dispatched to nobody, and its listener context is gone. -/
theorem passDispatchWf_of_outside (h : p.outside) (hl : Sparse.read s.listeners j = none) : PassDispatchWf s j p :=
  ⟨by simp [hl, h.2], fun lid hp => absurd hp (h.2 lid), fun u hi => absurd hi (h.not_iterates u)⟩

theorem PassDispatchWf.congr (hw : PassDispatchWf s j p)
    (hl : (Sparse.read t.listeners j).isSome = (Sparse.read s.listeners j).isSome)
    (hm : ∀ u, p.iterates u → t.members u = s.members u) : PassDispatchWf t j p := by
  obtain ⟨hlis, hrem, hmem⟩ := hw
  exact ⟨by rw [hl]; exact hlis, hrem, fun u hu => by rw [hm u hu]; exact hmem u hu⟩

/-- Pass `j` is written, and the sets and the listener contexts of the other passes are as before. -/
theorem DispatchWf.pass_set (hw : DispatchWf s) (hp : t.passes = Sparse.write s.passes j p)
    (hl : ∀ k, k ≠ j → Sparse.read t.listeners k = Sparse.read s.listeners k) (hm : ∀ u, t.members u = s.members u)
    (hown : PassDispatchWf t j p) : DispatchWf t := by
  refine dispatchWf_iff.2 fun k q hq => ?_
  rw [hp, Sparse.read_write] at hq
  split at hq
  · next hk =>
    cases hq
    rwa [hk]
  · next hk => exact (dispatchWf_iff.1 hw k q hq).congr (by rw [hl k hk]) fun u _ => hm u

-- ---- steps ----

/-- Names, locks and dispatches agree (R32, R211, R215, R216, R219, R225). -/
structure Dispatching (s : State) : Prop where
  names : NamesFresh s
  locks : LocksWf s
  dispatches : DispatchWf s

/-- Nothing of the names, the locks, the passes and the listener contexts changes, and no set that a pass iterates over. -/
theorem Dispatching.congr (hw : Dispatching s) (hn : t.nextPass = s.nextPass) (hk : ∀ u, t.lock u = s.lock u)
    (hp : t.passes = s.passes) (hl : ∀ j, (Sparse.read t.listeners j).isSome = (Sparse.read s.listeners j).isSome)
    (hm : ∀ u j, s.lock u = .held j → t.members u = s.members u) : Dispatching t where
  names := hw.names.mono hn.ge fun j => by
    simp only [NameInUse, hp, ← Option.isSome_iff_ne_none, hl, imp_self]
  locks := hw.locks.congr hk hp
  dispatches := dispatchWf_iff.2 fun j p h => by
    rw [hp] at h
    exact (dispatchWf_iff.1 hw.dispatches j p h).congr (hl j) fun u hu => hm u j ((hw.locks u j).2 ⟨p, h, hu⟩)

/-- Pass `j` is written and perhaps given a listener context: no name comes into use. -/
theorem NamesFresh.pass_set (hw : NamesFresh s) (hn : t.nextPass = s.nextPass) (hj : Sparse.read s.passes j ≠ none)
    (hp : t.passes = Sparse.write s.passes j p)
    (hl : ∀ k, k ≠ j → Sparse.read t.listeners k = Sparse.read s.listeners k) : NamesFresh t := by
  refine hw.mono hn.ge fun k hk => ?_
  by_cases e : k = j
  · exact .inl (e ▸ hj)
  · simpa only [NameInUse, hp, hl k e, Sparse.read_write_other _ _ e] using hk

/-- A pass goes on, or starts, outside any iteration: nothing else of the locks, the sets and the listeners changes. -/
theorem Dispatching.pass_outside (hw : Dispatching s) (hn : s.nextPass ≤ t.nextPass) (hj : j < t.nextPass)
    (hk : ∀ u, t.lock u = s.lock u) (hp : t.passes = Sparse.write s.passes j p) (hl : t.listeners = s.listeners)
    (hm : ∀ u, t.members u = s.members u) (hfree : ∀ u, s.lock u ≠ .held j) (hno : Sparse.read s.listeners j = none)
    (h : p.outside) : Dispatching t where
  names := namesFresh_iff.2 fun k hused => by
    by_cases e : k = j
    · rwa [e]
    · refine (namesFresh_iff.1 hw.names k ?_).trans_le hn
      simpa [NameInUse, hp, hl, Sparse.read_write_other _ _ e] using hused
  locks := hw.locks.pass_set hp (fun u k _ => by rw [hk]) fun u => by simp [hk, hfree, h.not_iterates]
  dispatches := hw.dispatches.pass_set hp (fun k _ => by rw [hl]) hm (passDispatchWf_of_outside h (by rw [hl, hno]))

theorem Pass.scan_outside (h : p.phase = .ready) : p.scan.outside := Pass.outside.of_ready (by rw [p.scan_phase, h])

/-- A step of a pass keeps the agreement. -/
theorem PassEffect.dispatching (h : PassEffect j p s t) (hp : Sparse.read s.passes j = some p) (hw : Dispatching s) :
    Dispatching t := by
  have hj : Sparse.read s.passes j ≠ none := by simp [hp]
  have hlt : j < s.nextPass := namesFresh_iff.1 hw.names j (.inl hj)
  have goes_on : ∀ {x : State} {p' : Pass}, p.outside → p'.outside → x.nextPass = s.nextPass → (∀ u, x.lock u = s.lock u) →
      x.passes = Sparse.write s.passes j p' → x.listeners = s.listeners → (∀ u, x.members u = s.members u) →
      Dispatching x := fun ho ho' hn hk hpx hl hm =>
    hw.pass_outside hn.ge (by rwa [hn]) hk hpx hl hm (hw.locks.not_held hp ho) (hw.dispatches.no_listener hp ho.2) ho'
  cases h with
  | idle => exact hw
  | begins a ha hb hphase hstage =>
    exact goes_on (.of_ready hphase) (.of_frameBegun rfl) rfl (by simp) rfl rfl (by simp)
  | conflict a f hb hphase hstage =>
    exact goes_on (.of_ready hphase) (by simp [Pass.outside]) rfl (by simp) rfl rfl (by simp)
  | flag r hphase hstage =>
    exact goes_on (.of_frameBegun hphase) (.of_ready rfl) rfl (by simp) rfl rfl (by simp)
  | capture r hphase hstage =>
    exact goes_on (.of_frameBegun hphase) (.of_ready rfl) rfl (by simp) rfl rfl (by simp)
  | scans hphase hstage =>
    exact goes_on (.of_ready hphase) (Pass.scan_outside hphase) rfl (by simp) rfl rfl (by simp)
  | nextPort P queue hq hphase hstage =>
    exact goes_on (.of_ready hphase) (.of_ready rfl) rfl (by simp) rfl rfl (by simp)
  | fails hphase =>
    refine ⟨hw.names.mono le_rfl fun k hk => .inr ?_, fun u k => ?_, fun k q hq => by cases hq⟩
    · simpa [NameInUse] using hk
    · simp only [State.lock_routerFatal, State.lock_frameEnd, releaseLock_eq_held, State.frameEnd_passes,
        State.routerFatal_passes, Sparse.read_nil, reduceCtorEq, false_and, exists_false, iff_false]
      rintro ⟨hheld, hnone⟩
      obtain ⟨q, hq, -⟩ := (hw.locks u k).1 hheld
      simp [hnone] at hq
  | takes u after hu hphase hl =>
    have hfree := hw.locks.not_held hp (.of_ready hphase)
    have hno := hw.dispatches.no_listener hp (by simp [hphase])
    have hiter := Pass.iterates_iff_of_atSet hu (p' := { p with rem := s.members u, phase := .iterating }) rfl rfl (.inl rfl)
    have hpasses : ((s.setLock u (.held j)).setPass j { p with rem := s.members u, phase := .iterating }).passes =
        Sparse.write s.passes j { p with rem := s.members u, phase := .iterating } := by simp
    refine ⟨hw.names.pass_set (by simp) hj hpasses (by simp), hw.locks.pass_set hpasses (fun v k hk => ?_) fun v => ?_,
      hw.dispatches.pass_set hpasses (by simp) (by simp) ⟨by simp [hno], by simp, fun v hv => ?_⟩⟩
    · by_cases e : v = u <;> simp [State.lock_setLock, e, hl, Ne.symm hk]
    · rw [hiter]
      by_cases e : v = u <;> simp [State.lock_setLock, e, hfree]
    · rw [(hiter v).1 hv]
      simp
  | dispatches u after hu hphase lid hm =>
    have hiter := Pass.iterates_iff_of_atSet hu (p' := { p with phase := .awaitDone lid }) rfl rfl (.inr ⟨lid, rfl⟩)
    have hiter₀ := Pass.iterates_iff_of_atSet hu rfl rfl (.inl hphase)
    have hlis : ∀ k, k ≠ j → Sparse.read (Sparse.write s.listeners j none) k = Sparse.read s.listeners k :=
      fun k hk => Sparse.read_write_other _ _ hk
    refine ⟨hw.names.pass_set rfl hj rfl hlis, hw.locks.pass_set rfl (fun v k hk => Iff.rfl) fun v => ?_,
      hw.dispatches.pass_set rfl hlis (fun _ => State.members_congr rfl rfl _) ⟨by simp, by simpa using hm, fun v hv => ?_⟩⟩
    · exact (hw.locks.held_iff hp v).trans ((hiter₀ v).trans (hiter v).symm)
    · exact (hw.dispatches j p hp).2.2 v ((hiter₀ v).2 ((hiter v).1 hv))
  | releases u after hu hphase hr =>
    have hheld : ∀ v, s.lock v = .held j ↔ v = u := fun v =>
      (hw.locks.held_iff hp v).trans (Pass.iterates_iff_of_atSet hu rfl rfl (.inl hphase) v)
    have hno := hw.dispatches.no_listener hp (by simp [hphase])
    have hout : Pass.outside { p with stage := after, phase := .ready } := .of_ready rfl
    have hpasses : ((s.setLock u .free).setPass j { p with stage := after, phase := .ready }).passes =
        Sparse.write s.passes j { p with stage := after, phase := .ready } := by simp
    refine ⟨hw.names.pass_set (by simp) hj hpasses (by simp), hw.locks.pass_set hpasses (fun v k hk => ?_) fun v => ?_,
      hw.dispatches.pass_set hpasses (by simp) (by simp) (passDispatchWf_of_outside hout (by simpa using hno))⟩
    · by_cases e : v = u
      · simp [State.lock_setLock, e, (hheld u).2 rfl, Ne.symm hk]
      · simp [State.lock_setLock, e]
    · by_cases e : v = u <;> simp [State.lock_setLock, e, hheld, hout.not_iterates]
  | ends hq hphase hstage =>
    refine ⟨hw.names.mono le_rfl fun k hk => ?_, hw.locks.pass_ended rfl (by simp)
      (hw.locks.not_held hp (.of_ready hphase)), dispatchWf_iff.2 fun k q hq => ?_⟩
    · simp only [NameInUse, State.endPass_passes, State.endPass_listeners, Sparse.read_clear] at hk ⊢
      grind
    · rw [State.endPass_passes, Sparse.read_clear] at hq
      split at hq
      · cases hq
      · exact hw.dispatches k q hq

/-- The DONE of pass `j`'s outstanding dispatch keeps the agreement (R219). -/
theorem Dispatching.done (hw : Dispatching s) (hp : Sparse.read s.passes j = some p)
    (hl : Sparse.read s.listeners j = some none) (hn : t.nextPass = s.nextPass) (hk : ∀ u, t.lock u = s.lock u)
    (hpt : t.passes = Sparse.write s.passes j p.afterDone) (hlt : t.listeners = Sparse.clear s.listeners j)
    (hm : ∀ u, t.members u = s.members u) : Dispatching t := by
  obtain ⟨hlis, -, hmem⟩ := hw.dispatches j p hp
  obtain ⟨lid, hphase⟩ := hlis.1 (by simp [hl])
  have hafter : p.afterDone = { p with rem := lidRemove p.rem lid, phase := .iterating } := by
    simp [Pass.afterDone, hphase]
  have hiter : ∀ v, p.afterDone.iterates v ↔ p.iterates v := fun v => by
    cases v <;> simp [Pass.iterates, hafter, hphase]
  have hother : ∀ k, k ≠ j → Sparse.read t.listeners k = Sparse.read s.listeners k := fun k hkj => by
    simp [hlt, Sparse.read_clear, hkj]
  refine ⟨hw.names.pass_set hn (by simp [hp]) hpt hother, hw.locks.pass_set hpt (fun u k _ => by rw [hk]) fun u => ?_,
    hw.dispatches.pass_set hpt hother hm ⟨by simp [hlt, Sparse.read_clear, hafter], by simp [hafter], fun u hu x hx => ?_⟩⟩
  · rw [hk, hw.locks.held_iff hp, hiter]
  · rw [hm]
    rw [hafter, mem_lidRemove] at hx
    exact hmem u ((hiter u).1 hu) x hx.1

/-- A late DONE, of a pass that has ended, takes a listener context off that no pass waits for (R223). -/
theorem Dispatching.doneLate (hw : Dispatching s) (hp : Sparse.read s.passes j = none) (hn : t.nextPass = s.nextPass)
    (hk : ∀ u, t.lock u = s.lock u) (hpt : t.passes = s.passes) (hlt : t.listeners = Sparse.clear s.listeners j)
    (hm : ∀ u, t.members u = s.members u) : Dispatching t := by
  refine ⟨hw.names.mono hn.ge fun k hused => ?_, hw.locks.congr hk hpt, dispatchWf_iff.2 fun k q hq => ?_⟩
  · simp only [NameInUse, hpt, hlt, Sparse.read_clear] at hused ⊢
    grind
  · rw [hpt] at hq
    have hkj : k ≠ j := fun e => by simp [e, hp] at hq
    exact (dispatchWf_iff.1 hw.dispatches k q hq).congr (by simp [hlt, Sparse.read_clear, hkj]) fun u _ => hm u

/-- With no pass in flight, no listener context and every lock FREE there is nothing to agree on. -/
theorem Dispatching.of_nothing (hp : t.passes = []) (hl : t.listeners = []) (hk : ∀ u, t.lock u = .free) :
    Dispatching t :=
  ⟨fun j _ => by simp [hp, hl], fun u j => by simp [hp, hk], fun j p h => by simp [hp] at h⟩

/-- A step of the machine keeps the agreement. -/
theorem StepEffect.dispatching (h : StepEffect s t) (hw : Dispatching s) : Dispatching t := by
  have unchanged : ∀ {x : State}, x.nextPass = s.nextPass → (∀ u, x.lock u = s.lock u) → x.passes = s.passes →
      (∀ j, (Sparse.read x.listeners j).isSome = (Sparse.read s.listeners j).isSome) →
      (∀ u, x.members u = s.members u) → Dispatching x := fun hn hk hp hl hm => hw.congr hn hk hp hl fun u _ _ => hm u
  cases h with
  | quiet => exact hw
  | dropped e rest he hr => exact unchanged rfl (State.lock_congr rfl rfl) rfl (fun _ => rfl) (State.members_congr rfl rfl)
  | noTurn a d rest he => exact unchanged rfl (by simp) rfl (fun _ => rfl) (by simp)
  | command c w rest he ha =>
    refine unchanged (by simp) (fun u => ?_) (by simp) (State.listener_isSome_setJob ?_) fun u => ?_
    · rw [State.lock_setJob]; exact State.lock_congr rfl rfl u
    · rintro j rfl
      exact State.listener_isSome_of_accepts ha
    · rw [State.members_setJob]; exact State.members_congr rfl rfl u
  | run c d rest job i t he hj hi ht =>
    refine hw.congr (by simpa using ht.nextPass_eq) (by simpa using ht.lock_eq) (by simpa using ht.passes_eq)
      (by simpa using ht.listener_isSome (by simpa using hj)) fun u j hheld => ?_
    rcases ht.members_cases u with heq | ⟨-, hfree, -⟩
    · simpa using heq
    · simp [hheld] at hfree
  | illegal c d rest job w r he hj hcode hr st hst =>
    exact unchanged (by simp) (by simp) (by simp) (State.listener_isSome_answered _ c st 0) (by simp)
  | pass j d rest p t he hp ht =>
    exact ht.dispatching hp (unchanged rfl (by simp) rfl (fun _ => rfl) (by simp))
  | edge x rest P queue he hl =>
    obtain ⟨hnop, hnol⟩ := hw.names s.nextPass le_rfl
    refine hw.pass_outside (p := Pass.fresh P queue) (Nat.le_succ _) (Nat.lt_succ_self _) (State.lock_congr rfl rfl) rfl rfl
      (State.members_congr rfl rfl) (fun u hu => ?_) hnol (.of_ready rfl)
    obtain ⟨q, hq, -⟩ := (hw.locks u _).1 hu
    simp [hnop] at hq
  | done j rest p he hl hp =>
    exact hw.done hp hl rfl (State.lock_congr rfl rfl) rfl rfl (State.members_congr rfl rfl)
  | doneLate j rest he hl hp =>
    exact hw.doneLate hp rfl (State.lock_congr rfl rfl) rfl rfl (State.members_congr rfl rfl)
  | reset landed rest he =>
    exact .of_nothing rfl rfl fun u => by cases u <;> simp [State.lock, blockReset, State.reset]

/-- Settles O49: every effect of a step keeps the agreement of names, locks and dispatches. -/
theorem locksFollowThePasses : Obligations.LocksFollowThePasses := by
  intro s t hf hl hd hstep
  have hw : Dispatching t := (step_effect hstep).dispatching ⟨hf, hl, hd⟩
  exact ⟨hw.names, hw.locks, hw.dispatches⟩

end Sys2Proof.Machine
end

section
/-! The maps of the state in canonical form (R33, R36, R40), kept by every operation and so by every step. -/

namespace Sys2Proof.Machine

variable {s t : State} {c : Ctx} {i : Instr}

theorem MapsWf.congr (hw : MapsWf s) (hc : t.chip = s.chip) (hh : t.hosts = s.hosts) (hl : t.listeners = s.listeners)
    (hp : t.passes = s.passes) : MapsWf t := by
  simpa only [MapsWf, hc, hh, hl, hp] using hw

theorem MapsWf.setJob (hw : MapsWf s) (c : Ctx) (job : Job) : MapsWf (s.setJob c job) := by
  obtain ⟨hchip, hhosts, hlisteners, hpasses⟩ := hw
  cases c with
  | host k => exact ⟨hchip, Sparse.wf_write k job hhosts, hlisteners, hpasses⟩
  | listener j => exact ⟨hchip, hhosts, Sparse.wf_write j (some job) hlisteners, hpasses⟩

theorem MapsWf.waiting (hw : MapsWf s) (c : Ctx) (i : Instr) (ph : Phase) : MapsWf (s.waiting c i ph) :=
  hw.setJob c _

theorem MapsWf.answered (hw : MapsWf s) (c : Ctx) (st : Byte) (r : BitVec 16) : MapsWf (s.answered c st r) := by
  obtain ⟨hchip, hhosts, hlisteners, hpasses⟩ := hw
  cases c with
  | host k => exact ⟨hchip, Sparse.wf_clear k hhosts, hlisteners, hpasses⟩
  | listener j =>
    simp only [State.answered, State.endJob]
    split
    · exact ⟨hchip, hhosts, Sparse.wf_write j none hlisteners, hpasses⟩
    · exact ⟨hchip, hhosts, hlisteners, hpasses⟩

theorem MapsWf.frameEnd (hw : MapsWf s) : MapsWf s.frameEnd := by
  obtain ⟨hchip, hhosts, hlisteners, hpasses⟩ := hw
  exact ⟨chipAfter_wf s.bus s.draw.frame hchip, hhosts, hlisteners, hpasses⟩

theorem MapsWf.setPass (hw : MapsWf s) (j : Nat) (p : Pass) : MapsWf (s.setPass j p) := by
  obtain ⟨hchip, hhosts, hlisteners, hpasses⟩ := hw
  exact ⟨hchip, hhosts, hlisteners, Sparse.wf_write j p hpasses⟩

theorem MapsWf.endPass (hw : MapsWf s) (j : Nat) : MapsWf (s.endPass j) := by
  obtain ⟨hchip, hhosts, hlisteners, hpasses⟩ := hw
  exact ⟨hchip, hhosts, hlisteners, Sparse.wf_clear j hpasses⟩

theorem MapsWf.routerFatal (hw : MapsWf s) : MapsWf s.routerFatal := by
  obtain ⟨hchip, hhosts, hlisteners, -⟩ := hw
  exact ⟨hchip, hhosts, hlisteners, rfl⟩

theorem MapsWf.setLock (hw : MapsWf s) (u : SetId) (l : Lock) : MapsWf (s.setLock u l) :=
  hw.congr (by simp) (by simp) (by simp) (by simp)

theorem MapsWf.setMembers (hw : MapsWf s) (u : SetId) (l : List Lid) : MapsWf (s.setMembers u l) :=
  hw.congr (by simp) (by simp) (by simp) (by simp)

theorem MapsWf.listener_set (hw : MapsWf s) (j : Nat) (o : Option Job) (hc : t.chip = s.chip) (hh : t.hosts = s.hosts)
    (hl : t.listeners = Sparse.write s.listeners j o) (hp : t.passes = s.passes) : MapsWf t := by
  obtain ⟨hchip, hhosts, hlisteners, hpasses⟩ := hw
  simp only [MapsWf, hc, hh, hl, hp]
  exact ⟨hchip, hhosts, Sparse.wf_write j o hlisteners, hpasses⟩

theorem MapsWf.listener_cleared (hw : MapsWf s) (j : Nat) (hc : t.chip = s.chip) (hh : t.hosts = s.hosts)
    (hl : t.listeners = Sparse.clear s.listeners j) (hp : t.passes = s.passes) : MapsWf t := by
  obtain ⟨hchip, hhosts, hlisteners, hpasses⟩ := hw
  simp only [MapsWf, hc, hh, hl, hp]
  exact ⟨hchip, hhosts, Sparse.wf_clear j hlisteners, hpasses⟩

theorem CtxEffect.mapsWf (h : CtxEffect c i s t) (hw : MapsWf s) : MapsWf t := by
  cases h with
  | idle => exact hw
  | answer => exact hw.answered _ _ _
  | goOn => exact hw.waiting _ _ _
  | begins | conflict | constructs | bringUpOk => exact MapsWf.waiting (by exact hw.congr rfl rfl rfl rfl) _ _ _
  | write | bringUpFail | finishes => exact MapsWf.answered (by exact hw.congr rfl rfl rfl rfl) _ _ _
  | ends => exact hw.frameEnd.answered _ _ _
  | tiedOk => exact hw.frameEnd.waiting _ _ _
  | tiedFail => exact (hw.frameEnd.congr (t := { s.frameEnd with lc := .unconstructed }) rfl rfl rfl rfl).answered _ _ _
  | joins | leaves => exact (hw.setMembers _ _).answered _ _ _

theorem PassEffect.mapsWf {j : Nat} {p : Pass} (h : PassEffect j p s t) (hw : MapsWf s) : MapsWf t := by
  cases h with
  | idle => exact hw
  | begins | conflict => exact MapsWf.setPass (by exact hw.congr rfl rfl rfl rfl) _ _
  | flag | capture => exact hw.frameEnd.setPass _ _
  | fails => exact hw.frameEnd.routerFatal
  | scans | nextPort => exact hw.setPass _ _
  | takes | releases => exact (hw.setLock _ _).setPass _ _
  | dispatches u after hu hp lid =>
    exact (hw.setPass j { p with phase := .awaitDone lid }).listener_set j none rfl rfl rfl rfl
  | ends => exact hw.endPass _

/-- Settles O48: every effect of a step writes and removes entries of the maps by the operations that keep their form. -/
theorem mapsStayCanonical : Obligations.MapsStayCanonical := by
  intro s t hw hstep
  cases step_effect hstep with
  | quiet => exact hw
  | dropped | noTurn => exact hw.congr rfl rfl rfl rfl
  | command => exact MapsWf.setJob (by exact hw.congr rfl rfl rfl rfl) _ _
  | run c d rest job i t he hj hi ht => exact ht.mapsWf (hw.congr rfl rfl rfl rfl)
  | illegal => exact MapsWf.answered (by exact hw.congr rfl rfl rfl rfl) _ _ _
  | pass j d rest p t he hp ht => exact ht.mapsWf (hw.congr rfl rfl rfl rfl)
  | edge x rest P queue => exact (hw.setPass s.nextPass (Pass.fresh P queue)).congr rfl rfl rfl rfl
  | done j rest p => exact (hw.setPass j p.afterDone).listener_cleared j rfl rfl rfl rfl
  | doneLate j => exact hw.listener_cleared j rfl rfl rfl rfl
  | reset landed => exact ⟨chipAfter_wf s.bus (.fail landed) hw.1, rfl, rfl, rfl⟩

end Sys2Proof.Machine
end

section
/-! Who writes FAULTS, LC, TOPO and SR: each writer of a field named once for a step of a context and of a pass (R23, R27,
R28, R31). -/

namespace Sys2Proof.Machine

variable {s t : State} {c : Ctx} {i : Instr} {ph : Phase} {j : Nat} {p : Pass}

-- ---- FAULTS ----

/-- Every fault recorded in `f` is recorded in `f'` (R31). -/
def FaultRecord.le (f f' : FaultRecord) : Prop :=
  (f.busConflict = true → f'.busConflict = true) ∧ (f.routerIo = true → f'.routerIo = true)

theorem FaultRecord.le.of_eq {f f' : FaultRecord} (h : f' = f) : f.le f' := by simp [FaultRecord.le, h]

theorem FaultRecord.le_busConflict (f : FaultRecord) : f.le { f with busConflict := true } := by simp [FaultRecord.le]

theorem FaultRecord.le_routerIo (f : FaultRecord) : f.le { f with routerIo := true } := by simp [FaultRecord.le]

theorem CtxEffect.faults_le (h : CtxEffect c i s t) : s.faults.le t.faults := by
  cases h with
  | conflict => simpa using s.faults.le_busConflict
  | _ => exact .of_eq (by simp)

theorem PassEffect.faults_le (h : PassEffect j p s t) : s.faults.le t.faults := by
  cases h with
  | conflict => exact s.faults.le_busConflict
  | fails => exact s.faults.le_routerIo
  | _ => exact .of_eq (by simp)

/-- Settles O51: a bus conflict and a fatal router step add a fault, and only a reset writes FAULTS otherwise. -/
theorem faultsAreSticky : Obligations.FaultsAreSticky := by
  intro s t hstep hreset
  have hle : s.faults.le t.faults := by
    cases step_effect hstep with
    | run c d rest job i t he hj hi ht => simpa using ht.faults_le
    | pass j d rest p t he hp ht => simpa using ht.faults_le
    | reset landed rest he => exact absurd ⟨landed, rest, he⟩ hreset
    | _ => exact .of_eq (by simp [State.spawn])
  exact hle

-- ---- LC and TOPO ----

/-- Only a construction changes LC, in its decode step from UNCONSTRUCTED or past it (R190). -/
theorem CtxEffect.lc_cases (h : CtxEffect c i s t) :
    t.lc = s.lc ∨ (IsConstruction i ∧ (s.lc = .unconstructed ∨ s.phase ≠ some .decode)) := by
  cases h with
  | tiedFail hi hp => exact .inr ⟨⟨.tied, hi⟩, .inr (by simp [hp])⟩
  | constructs top hi hd hl => exact .inr ⟨⟨top, hi⟩, .inl hl⟩
  | bringUpFail top hi hp => exact .inr ⟨⟨top, hi⟩, .inr (by simp [hp])⟩
  | finishes top hi hp => exact .inr ⟨⟨top, hi⟩, .inr (by simp [hp])⟩
  | _ => exact .inl (by simp)

/-- Only a construction changes TOPO, in its final step (R28, R190). -/
theorem CtxEffect.topo_cases (h : CtxEffect c i s t) :
    t.topo = s.topo ∨ ∃ top, i = constructOf top ∧ s.phase = some .final ∧ t.topo = top := by
  cases h with
  | finishes top hi hp => exact .inr ⟨top, hi, hp, by simp⟩
  | _ => exact .inl (by simp)

theorem PassEffect.topo_eq (h : PassEffect j p s t) : t.topo = s.topo := by cases h <;> simp

/-- While LC is FATAL no construction is past its decode step, so a command changes neither LC nor TOPO (R247). -/
theorem CtxEffect.stays_fatal (h : CtxEffect c i s t) (hr : Running s c i ph) (hw : LifecycleWf s) (hl : s.lc = .fatal) :
    t.lc = .fatal ∧ t.topo = s.topo := by
  have hnone : ph ≠ .decode → ¬ IsConstruction i := fun hd hi => by
    have hcon := (hw.isConstruction_iff hr hd).1 hi
    simp [hl] at hcon
  constructor
  · rcases h.lc_cases with heq | ⟨hi, hun | hd⟩
    · rw [heq, hl]
    · simp [hl] at hun
    · exact absurd hi (hnone (hr.phase_ne hd))
  · rcases h.topo_cases with heq | ⟨top, hi, hp, -⟩
    · exact heq
    · obtain rfl := hr.phase_eq hp
      exact absurd ⟨top, hi⟩ (hnone (by simp))

/-- Settles O52: in FATAL there is no pass to step, no edge is taken and no command changes LC, TOPO or PASSES. -/
theorem onlyResetLeavesFatal : Obligations.OnlyResetLeavesFatal := by
  intro s t hw hl hstep hreset
  have hp : s.passes = [] := hw.2.2.2 (by simp [hl])
  have hmain : t.lc = .fatal ∧ t.passes = [] ∧ t.topo = s.topo := by
    cases step_effect hstep with
    | run c d rest job i t he hj hi ht =>
      obtain ⟨hlc, htopo⟩ := ht.stays_fatal (hw.running hj hi d rest) (hw.same rfl (State.job_congr rfl rfl) fun _ => rfl) hl
      exact ⟨hlc, ht.passes_eq.trans hp, htopo⟩
    | pass j d rest p t he hpass ht => simp [hp] at hpass
    | edge x rest P queue he hready => simp [hl] at hready
    | done j rest p he hlis hpass => simp [hp] at hpass
    | reset landed rest he => exact absurd ⟨landed, rest, he⟩ hreset
    | _ => simp [hl, hp]
  exact ⟨hmain.1, by simp [State.fatalOut, hmain.1], hmain.2⟩

/-- Settles O55: the only effect that writes TOPO, a reset apart, is the final step of a construction. -/
theorem onlyConstructionWritesTheTopology : Obligations.OnlyConstructionWritesTheTopology := by
  intro s t hstep hne
  cases step_effect hstep with
  | run c d rest job i t he hj hi ht =>
    rcases ht.topo_cases with heq | ⟨top, htop, hp, htopo⟩
    · exact absurd heq hne
    · have hphase : job.phase = .final := Option.some.inj ((State.phase_given hj d rest).symm.trans hp)
      exact .inr ⟨c, d, rest, job, top, he, hj, htop ▸ hi, hphase, htopo⟩
  | pass j d rest p t he hp ht => exact absurd ht.topo_eq hne
  | reset landed rest he => exact .inl ⟨landed, rest, he⟩
  | _ => simp [State.spawn] at hne

-- ---- SR ----

/-- Only a setter changes SR, in its write step and in one byte (R23, R118). -/
theorem CtxEffect.sr_cases (h : CtxEffect c i s t) :
    t.sr = s.sr ∨ ∃ k n v b b', i = setterOf k n v ∧ n ≤ 15 ∧ s.phase = some (.setterRead b) ∧
      t.sr = s.sr.set k (portFor n) b' := by
  cases h with
  | write k n v b b' hi hn hp => exact .inr ⟨k, n, v, b, b', hi, hn, hp, by simp⟩
  | _ => exact .inl (by simp)

theorem PassEffect.sr_eq (h : PassEffect j p s t) : t.sr = s.sr := by cases h <;> simp

/-- Settles O53: the only effect that writes SR, a reset apart, is the write step of a setter, and it writes one byte. -/
theorem onlySettersAndResetWriteTheShadow : Obligations.OnlySettersAndResetWriteTheShadow := by
  intro s t hstep hne
  cases step_effect hstep with
  | run c d rest job i t he hj hi ht =>
    rcases ht.sr_cases with heq | ⟨k, n, v, b, b', hset, hn, hp, hsr⟩
    · exact absurd heq hne
    · have hphase : job.phase = .setterRead b := Option.some.inj ((State.phase_given hj d rest).symm.trans hp)
      have hbyte : t.sr.get k (portFor n) = b' := by rw [hsr, Shadow.get_set, if_pos ⟨rfl, rfl⟩]
      exact .inr ⟨c, d, rest, job, k, n, v, b, he, hj, hset ▸ hi, hn, hphase, by rw [hbyte, hsr, State.given_sr]⟩
  | pass j d rest p t he hp ht => exact absurd ht.sr_eq hne
  | reset landed rest he => exact .inl ⟨landed, rest, he⟩
  | _ => simp [State.spawn] at hne

end Sys2Proof.Machine
end

section
/-! Commands and their responses (R36, R71): a word is taken by an IDLE context, and a command that ends, a reset apart, is
answered once, in its context's own turn. -/

namespace Sys2Proof.Machine

variable {s t : State} {c : Ctx} {i : Instr} {new : List Output}

-- ---- a word is presented ----

/-- Where a command event comes first, the step is that event's (R7, R36). -/
theorem step_of_command {w : CmdWord} {rest : List EnvEvent} (h : s.env = .command c w :: rest) :
    step s = .next (onCommand c w { s with env := rest }) := by
  simp only [step, h]
  rfl

theorem onCommand_of_accepts (h : s.accepts c = true) (w : CmdWord) :
    onCommand c w s = s.setJob c { code := .cmd w, phase := .decode } := if_pos h

theorem State.accepts_host {k : Nat} (hk : k < Config.nhost) (hidle : s.job (.host k) = none) :
    s.accepts (.host k) = true := by
  have hidle' : Sparse.read s.hosts k = none := hidle
  simp [State.accepts, hk, hidle']

theorem State.accepts_listener {j : Nat} (h : Sparse.read s.listeners j = some none) :
    s.accepts (.listener j) = true := by
  simp [State.accepts, h]

/-- A BUSY context takes no word (R36). -/
theorem onCommand_of_busy {job : Job} (h : s.job c = some job) (w : CmdWord) : onCommand c w s = s :=
  if_neg fun ha => by simp [State.job_of_accepts ha] at h

/-- Settles O6: an IDLE context that is there accepts the word, and a BUSY one does not. -/
theorem onlyIdleContextsAcceptCommands : Obligations.OnlyIdleContextsAcceptCommands := by
  intro s w rest c he
  rw [step_of_command he]
  refine ⟨?_, ?_, ?_⟩
  · rintro k rfl hk hidle
    exact congrArg _ (onCommand_of_accepts (State.accepts_host hk (by exact hidle)) w)
  · rintro j rfl hlis
    exact congrArg _ (onCommand_of_accepts (State.accepts_listener (by exact hlis)) w)
  · intro job hjob
    have hjob' : ({ s with env := rest } : State).job c = some job := (State.job_congr rfl rfl c).trans hjob
    exact congrArg _ (onCommand_of_busy hjob' w)

-- ---- outputs and responses ----

/-- A step of context `c` has put out `new`: a response to `c` alone, and that once if `c` is IDLE after it and not at all
if `c` is still BUSY. -/
def AnswersAtEnd (c : Ctx) (s t : State) (new : List Output) : Prop :=
  (∀ c', c' ≠ c → responsesTo c' new = [] ∧ t.job c' = s.job c') ∧
    ((t.job c ≠ none ∧ responsesTo c new = []) ∨ (t.job c = none ∧ ∃ w, responsesTo c new = [w]))

/-- The outputs `new` hold no response. -/
def Silent (new : List Output) : Prop := ∀ c, responsesTo c new = []

theorem Silent.nil : Silent [] := fun _ => rfl

theorem answersAtEnd_answered {x : State} (htrace : x.trace = s.trace ++ new) (hnew : Silent new)
    (hx : ∀ c', x.job c' = s.job c') (st : Byte) (r : BitVec 16) :
    ∃ new, (x.answered c st r).trace = s.trace ++ new ∧ AnswersAtEnd c s (x.answered c st r) new := by
  refine ⟨new ++ [.response c (st ++ (0 : Byte) ++ r)], by rw [State.answered_trace, htrace, List.append_assoc],
    fun c' hc => ?_, .inr ⟨by simp [State.job_answered], st ++ (0 : Byte) ++ r, by simp [hnew c]⟩⟩
  simp [hnew c', Ne.symm hc, State.job_answered, hc, hx]

theorem answersAtEnd_waiting {x : State} (htrace : x.trace = s.trace ++ new) (hnew : Silent new)
    (hx : ∀ c', x.job c' = s.job c') (ph : Phase) :
    ∃ new, (x.waiting c i ph).trace = s.trace ++ new ∧ AnswersAtEnd c s (x.waiting c i ph) new := by
  refine ⟨new, by rw [State.waiting_trace, htrace], fun c' hc => ⟨hnew c', ?_⟩,
    .inl ⟨by simp [State.job_waiting], hnew c⟩⟩
  simp [State.job_waiting, hc, hx]

/-- What a step of a context's command puts out, it puts out after the earlier outputs, with the response at its end. -/
theorem CtxEffect.answersAtEnd (h : CtxEffect c i s t) (hbusy : s.job c ≠ none) :
    ∃ new, t.trace = s.trace ++ new ∧ AnswersAtEnd c s t new := by
  have same : s.trace = s.trace ++ [] := (List.append_nil _).symm
  have congr : ∀ {x : State}, x.hosts = s.hosts → x.listeners = s.listeners → ∀ c', x.job c' = s.job c' :=
    State.job_congr
  cases h with
  | idle => exact ⟨[], same, fun c' _ => ⟨rfl, rfl⟩, .inl ⟨hbusy, rfl⟩⟩
  | answer | write | ends | tiedFail | finishes =>
    exact answersAtEnd_answered (by exact same) .nil (by exact congr rfl rfl) _ _
  | joins | leaves => exact answersAtEnd_answered (by simp) .nil (by simp) _ _
  | goOn | conflict | tiedOk | constructs =>
    exact answersAtEnd_waiting (by exact same) .nil (by exact congr rfl rfl) _
  | begins | bringUpOk => exact answersAtEnd_waiting (by rfl) (fun _ => rfl) (by exact congr rfl rfl) _
  | bringUpFail => exact answersAtEnd_answered (by rfl) (fun _ => rfl) (by exact congr rfl rfl) _ _

/-- A pass gives no response (R6, R71). -/
theorem PassEffect.silent {j : Nat} {p : Pass} (h : PassEffect j p s t) :
    ∃ new, t.trace = s.trace ++ new ∧ Silent new := by
  cases h with
  | begins | dispatches => exact ⟨_, rfl, fun _ => rfl⟩
  | _ => exact ⟨[], by simp, .nil⟩

/-- A step of a pass changes no job (R226). -/
theorem PassEffect.job_eq {j : Nat} {p : Pass} (h : PassEffect j p s t) (hp : Sparse.read s.passes j = some p)
    (hd : DispatchWf s) (c : Ctx) : t.job c = s.job c := by
  cases h with
  | dispatches u after hu hphase lid hm =>
    exact State.job_new_listener (hd.no_listener hp (by simp [hphase])) (by rfl) (by rfl) c
  | _ => simp

/-- The outputs `new` of a step give context `c` at most one response, in its own last step, and one if its command ends
without a reset. -/
def OneResponse (s t : State) (new : List Output) (c : Ctx) : Prop :=
  (responsesTo c new = [] ∨ ∃ w, responsesTo c new = [w] ∧ (∃ d rest, TurnComes s (.ctx c) d rest) ∧
    s.job c ≠ none ∧ t.job c = none) ∧
  (DispatchWf s → ¬ ResetComes s → s.job c ≠ none → t.job c = none → ∃ w, responsesTo c new = [w])

/-- A step that gives no response and ends no command. -/
theorem oneResponse_of_silent (hnew : Silent new)
    (hjob : DispatchWf s → ¬ ResetComes s → ∀ c, s.job c ≠ none → t.job c ≠ none) (c : Ctx) : OneResponse s t new c :=
  ⟨.inl (hnew c), fun hd hr hs ht => absurd ht (hjob hd hr c hs)⟩

/-- A step of a BUSY context that answers at the end of its command. -/
theorem AnswersAtEnd.oneResponse (h : AnswersAtEnd c s t new) {d : Draw} {rest : List EnvEvent}
    (hturn : TurnComes s (.ctx c) d rest) (hbusy : s.job c ≠ none) (c' : Ctx) : OneResponse s t new c' := by
  obtain ⟨hother, hown⟩ := h
  by_cases hc : c' = c
  · subst hc
    rcases hown with ⟨ht, hnone⟩ | ⟨ht, w, hw⟩
    · exact ⟨.inl hnone, fun _ _ _ hend => absurd hend ht⟩
    · exact ⟨.inr ⟨w, hw, ⟨d, rest, hturn⟩, hbusy, ht⟩, fun _ _ _ _ => ⟨w, hw⟩⟩
  · obtain ⟨hnone, hjob⟩ := hother c' hc
    exact ⟨.inl hnone, fun _ _ hs ht => absurd (hjob.symm.trans ht) hs⟩

/-- Settles O56: only a context's own step ends its command with a response; no other effect responds, and none but a
reset makes a BUSY context IDLE. -/
theorem eachCommandHasOneResponse : Obligations.EachCommandHasOneResponse := by
  intro s t hstep
  have silent : t.trace = s.trace → (¬ ResetComes s → ∀ c, s.job c ≠ none → t.job c ≠ none) →
      ∃ new, t.trace = s.trace ++ new ∧ ∀ c, OneResponse s t new c := fun htrace hjob =>
    ⟨[], by rw [htrace, List.append_nil], oneResponse_of_silent .nil fun _ => hjob⟩
  cases step_effect hstep with
  | quiet => exact silent rfl fun _ _ hs => hs
  | dropped | noTurn => exact silent rfl fun _ c hs => (State.job_congr rfl rfl c).trans_ne hs
  | command c w rest he ha =>
    refine silent (by simp) fun _ c' hs => ?_
    rw [State.job_setJob]
    split
    · simp
    · rwa [State.job_congr rfl rfl c']
  | run c d rest job i t he hj hi ht =>
    have hbusy : s.job c ≠ none := by simp [hj]
    obtain ⟨new, htrace, hans⟩ := ht.answersAtEnd (by simpa using hbusy)
    have hans' : AnswersAtEnd c s t new := by simpa only [AnswersAtEnd, State.job_given] using hans
    exact ⟨new, htrace, hans'.oneResponse he hbusy⟩
  | illegal c d rest job w r he hj hcode hr st hst =>
    obtain ⟨new, htrace, hans⟩ := answersAtEnd_answered (s := s) (x := s.given (.ctx c) d rest) (c := c) (new := [])
      (by simp) .nil (by simp) st 0
    exact ⟨new, htrace, hans.oneResponse he (by simp [hj])⟩
  | pass j d rest p t he hp ht =>
    obtain ⟨new, htrace, hnew⟩ := ht.silent
    refine ⟨new, htrace, oneResponse_of_silent hnew fun hd _ c hs => ?_⟩
    rwa [ht.job_eq hp hd c, State.job_given]
  | edge x rest P queue => exact silent rfl fun _ c hs => (State.job_congr rfl rfl c).trans_ne hs
  | done j rest p he hl hp => exact silent rfl fun _ c hs => (State.job_clear_listener hl (by rfl) (by rfl) c).trans_ne hs
  | doneLate j rest he hl hp => exact silent rfl fun _ c hs => (State.job_clear_listener hl (by rfl) (by rfl) c).trans_ne hs
  | reset landed rest he => exact silent rfl fun hr => absurd ⟨landed, rest, he⟩ hr

end Sys2Proof.Machine
end

section
/-! The expander's register addresses (R41) and what a frame's end leaves in the chip's registers (R51). -/

namespace Sys2Proof.Machine

variable {s : State}

/-- Settles O10: each address is its slot's number plus the number of the port. -/
theorem registerAddressTable : Obligations.RegisterAddressTable := by
  unfold Obligations.RegisterAddressTable
  decide

/-- Reading the register space after a whole byte was written to it (R40). -/
theorem Memory.read_write (m : Memory) (a x : Byte) (v : Byte) :
    Memory.read (Sparse.write m a.toNat v) x = if x = a then some v else Memory.read m x := by
  simp only [Memory.read, Sparse.read_write, BitVec.toNat_inj]

/-- A read frame leaves the chip's registers alone (R51). -/
theorem chipAfter_readFrame (owner : Agent) (a : Byte) (o : FrameOutcome) (m : Memory) :
    chipAfter (.busy owner (readFrame a)) o m = m := by
  have hne : readOpcode ≠ writeOpcode := by decide
  simp only [chipAfter, frameByte0_readFrame, if_neg hne]

/-- A write frame that is OK has set the register it addresses, and no other (R51). -/
theorem read_chipAfter_writeFrame_ok (owner : Agent) (a v r0 r1 r2 : Byte) (m : Memory) (x : Byte) :
    Memory.read (chipAfter (.busy owner (writeFrame a v)) (.ok r0 r1 r2) m) x =
      if x = a then some v else Memory.read m x := by
  simp only [chipAfter, frameByte0_writeFrame, frameByte1_writeFrame, frameByte2_writeFrame, if_true, Memory.read_write]

/-- A write frame that fails has set the register it addresses, or has not, as the environment draws (R51). -/
theorem read_chipAfter_writeFrame_fail (owner : Agent) (a v : Byte) (landed : Bool) (m : Memory) (x : Byte) :
    Memory.read (chipAfter (.busy owner (writeFrame a v)) (.fail landed) m) x =
      if x = a ∧ landed = true then some v else Memory.read m x := by
  cases landed with
  | false => simp [chipAfter]
  | true => simp [chipAfter, Memory.read_write]

/-- The end of a read frame releases the bus and does nothing else (R47, R51). -/
theorem State.frameEnd_of_readFrame {owner : Agent} {a : Byte} (h : s.bus = .busy owner (readFrame a)) :
    s.frameEnd = s.released := by
  simp only [State.frameEnd, State.released, h, chipAfter_readFrame]

/-- A response after a frame's end is the response after the bus's release, but for the chip (R47, R51). -/
theorem State.frameEnd_answered (s : State) (c : Ctx) (st : Byte) (r : BitVec 16) :
    s.frameEnd.answered c st r = { s.released.answered c st r with chip := chipAfter s.bus s.draw.frame s.chip } :=
  s.released.answered_with_chip c st r (chipAfter s.bus s.draw.frame s.chip)

end Sys2Proof.Machine
end

section
/-! The two steps of a bare frame of a context, FrameBegin and FrameEnd with its response (R47 to R49). -/

namespace Sys2Proof.Machine

variable {s : State} {c : Ctx} {i : Instr} {f : FrameWord} {value : Byte → Option Byte}

theorem frameStep_of_decoding (h : Decoding s c) : frameStep i f value s = s.beginFrame i f := by
  obtain ⟨hcur, hphase⟩ := h
  simp only [frameStep, hcur, hphase]

theorem frameStep_of_frameBegun (h : InPhase s c .frameBegun) :
    frameStep i f value s = s.endFrame fun r s => s.respond (byteResult ((value r).getD 0)) := by
  obtain ⟨hcur, hphase⟩ := h
  simp only [frameStep, hcur, hphase]

theorem frameStep_begins (h : Decoding s c) (hb : s.bus = .idle) :
    frameStep i f value s = (s.framed (.ctx c) f).waiting c i .frameBegun := by
  rw [frameStep_of_decoding h, State.beginFrame_idle h.1 hb]

theorem frameStep_conflicts (h : Decoding s c) {a : Agent} {g : FrameWord} (hb : s.bus = .busy a g) :
    frameStep i f value s = s.busConflict.waiting c i .stuck := by
  rw [frameStep_of_decoding h, State.beginFrame_busy h.1 hb]

theorem frameStep_ends_ok (h : InPhase s c .frameBegun) {r0 r1 r2 : Byte} (hd : s.draw.frame = .ok r0 r1 r2) :
    frameStep i f value s = s.frameEnd.answered c 0x00 (byteResult ((value r2).getD 0)) := by
  have hcur : s.frameEnd.cur = .ctx c := h.1
  rw [frameStep_of_frameBegun h, State.endFrame_ok hd, State.respond_ctx hcur]

theorem frameStep_ends_fail (h : InPhase s c .frameBegun) {landed : Bool} (hd : s.draw.frame = .fail landed) :
    frameStep i f value s = s.frameEnd.answered c 0x03 0 := by
  have hcur : s.frameEnd.cur = .ctx c := h.1
  rw [frameStep_of_frameBegun h, State.endFrame_fail hd, State.raise_ctx hcur]
  rfl

theorem exec_busWrite (a v : Byte) :
    exec (.busWrite a v) s = .next (frameStep (.busWrite a v) (writeFrame a v) (fun _ => none) s) := rfl

theorem exec_busRead (a : Byte) : exec (.busRead a) s = .next (frameStep (.busRead a) (readFrame a) some s) := rfl

/-- Settles O26: the two steps of a bare frame; a write frame's end is taken apart by `read_chipAfter_writeFrame_ok` and
`read_chipAfter_writeFrame_fail`, a read frame's leaves the chip alone. -/
theorem bareFramesBeginAndEnd : Obligations.BareFramesBeginAndEnd := by
  intro a v c s
  refine ⟨fun hd hb => ⟨?_, ?_⟩, fun r0 r1 r2 hp ho => ⟨fun hb => ⟨_, rfl, ?_⟩, fun hb => ?_⟩,
    fun landed hp ho => ⟨fun hb => ⟨_, rfl, ?_⟩, fun hb => ?_⟩⟩
  · rw [exec_busWrite, frameStep_begins hd hb]; rfl
  · rw [exec_busRead, frameStep_begins hd hb]; rfl
  · rw [frameStep_ends_ok hp ho, State.frameEnd_answered, ho, hb]
    exact ⟨rfl, read_chipAfter_writeFrame_ok (.ctx c) a v r0 r1 r2 s.chip⟩
  · rw [exec_busRead, frameStep_ends_ok hp ho, State.frameEnd_of_readFrame hb]; rfl
  · rw [frameStep_ends_fail hp ho, State.frameEnd_answered, ho, hb]
    exact ⟨rfl, read_chipAfter_writeFrame_fail (.ctx c) a v landed s.chip⟩
  · rw [exec_busRead, frameStep_ends_fail hp ho, State.frameEnd_of_readFrame hb]

end Sys2Proof.Machine
end

section
/-! A FrameBegin on a BUSY bus (R47, R52), form by form, and the turns of an agent that is stuck. -/

namespace Sys2Proof.Machine

variable {s : State} {c : Ctx} {a : Agent} {g : FrameWord} {j : Nat} {p : Pass}

/-- A commit is the commit template for its concern and its port (R140 to R154). -/
theorem exec_commitOf (k : Concern) (P : Port) : exec (commitOf k P) s = .next (commit (commitOf k P) k P s) := by
  cases P <;> cases k <;> rfl

theorem commit_of_decoding {i : Instr} {k : Concern} {P : Port} (h : Decoding s c) (hl : s.lc = .ready) :
    commit i k P s = s.beginFrame i (writeFrame (concernAddr k P) (s.sr.get k P)) := by
  simp only [commit, h.2, State.enter_ready hl]

theorem exec_readReg_of_decoding {addr : Byte} (h : Decoding s c) (hl : s.lc = .ready) :
    exec (.readReg addr) s = .next (s.beginFrame (.readReg addr) (readFrame addr)) := by
  simp only [exec, execReadReg, h.2, State.enter_ready hl]

theorem exec_get_of_frameReady {n : Nat} (hn : n < 16) (h : InPhase s c .frameReady) :
    exec (.get n) s = .next (s.beginFrame (.get n) (readFrame (addrGpio (portOf ⟨n, hn⟩)))) := by
  simp only [exec, execGet, getValue, h.2, State.withPin_valid hn]

theorem exec_constructTied_of_frameReady (h : InPhase s c .frameReady) :
    exec .constructTied s = .next (s.beginFrame .constructTied (writeFrame addrIocon ioconTiedValue)) := by
  simp only [exec, execConstructTied, h.2]

/-- A pass that has a bare frame before it stands at a stage that sends one (R212, R213). -/
theorem Pass.sendsFrame_of_frame {i : Instr} (h : p.frame = some i) : p.stage.sendsFrame = true := by
  cases hs : p.stage <;> simp_all [Pass.frame, Stage.sendsFrame]

theorem frameStep_pass_conflicts {i : Instr} {f : FrameWord} {value : Byte → Option Byte} (hc : s.cur = .pass j)
    (hp : Sparse.read s.passes j = some p) (hf : p.stage.sendsFrame = true) (hr : p.phase = .ready)
    (hb : s.bus = .busy a g) : frameStep i f value s = s.busConflict.setPass j { p with phase := .stuck } := by
  simp only [frameStep, hc, hp, hf, hr, if_true, State.frameBegin_busy hb]

theorem frameStep_pass_of_stuck {i : Instr} {f : FrameWord} {value : Byte → Option Byte} (hc : s.cur = .pass j)
    (hp : Sparse.read s.passes j = some p) (hstuck : p.phase = .stuck) : frameStep i f value s = s := by
  simp only [frameStep, hc, hp, hstuck, ite_self]

/-- A stuck context does nothing in its turns, whatever its command (R52). -/
theorem exec_of_stuck (h : InPhase s c .stuck) (i : Instr) : exec i s = .next s := by
  obtain ⟨t, ht, heffect⟩ := exec_ctx_effect h.1 i
  rw [ht, heffect.eq_of_stuck h.2]

/-- Settles O29: each form comes to `State.beginFrame`, or in a pass to `State.frameBegin`, which a BUSY bus refuses. -/
theorem frameOnABusyBusIsAConflict : Obligations.FrameOnABusyBusIsAConflict := by
  refine ⟨fun s a g hb => ⟨?_, ?_, ?_, ?_, ?_, ?_, ?_⟩, fun s c i h => exec_of_stuck h i, ?_⟩
  · intro c k P h hl
    rw [exec_commitOf, commit_of_decoding h hl, State.beginFrame_busy h.1 hb]; rfl
  · intro c addr h hl
    rw [exec_readReg_of_decoding h hl, State.beginFrame_busy h.1 hb]; rfl
  · intro c n hn h
    rw [exec_get_of_frameReady (Nat.lt_succ_of_le hn) h, State.beginFrame_busy h.1 hb]; rfl
  · intro c h
    rw [exec_constructTied_of_frameReady h, State.beginFrame_busy h.1 hb]; rfl
  · intro c addr v h
    rw [exec_busWrite, frameStep_conflicts h hb]; rfl
  · intro c addr h
    rw [exec_busRead, frameStep_conflicts h hb]; rfl
  · intro j p addr hc hp hf hr
    rw [exec_busRead, frameStep_pass_conflicts hc hp (Pass.sendsFrame_of_frame hf) hr hb]; rfl
  · intro s j p addr hc hp hstuck
    rw [exec_busRead, frameStep_pass_of_stuck hc hp hstuck]

end Sys2Proof.Machine
end

section
/-! Stuck agents (R52, R177): a command and a pass that do nothing in their own turns are as before after every step, a
reset and a fatal step of the router apart. -/

namespace Sys2Proof.Machine

variable {s t : State} {c : Ctx} {i : Instr} {j : Nat} {p : Pass}

/-- The own turns of context `c`, whose command is `i`, change nothing. -/
def IdleInItsTurns (s : State) (c : Ctx) (i : Instr) : Prop :=
  ∀ d rest t, CtxEffect c i (s.given (.ctx c) d rest) t → t = s.given (.ctx c) d rest

theorem idleInItsTurns_of_stuck {job : Job} (hj : s.job c = some job) (hp : job.phase = .stuck) :
    IdleInItsTurns s c i := fun d rest _ h => h.eq_of_stuck (hp ▸ State.phase_given hj d rest)

theorem idleInItsTurns_of_held {job : Job} (hj : s.job c = some job) (hp : job.phase = .waitLock) {u : SetId}
    (hu : ListenerCommandOn u i) (hl : s.lock u = .held j) : IdleInItsTurns s c i :=
  fun d rest _ h => h.eq_of_held (hp ▸ State.phase_given hj d rest) hu (by rwa [State.lock_given])

/-- A step of a context's command changes no other context's job (R36). -/
theorem CtxEffect.job_other {c' : Ctx} (h : CtxEffect c i s t) (hbusy : s.job c ≠ none) (hc : c' ≠ c) :
    t.job c' = s.job c' := by
  obtain ⟨new, -, hother, -⟩ := h.answersAtEnd hbusy
  exact (hother c' hc).2

/-- A command whose own turns change nothing is as before after every step but a reset. -/
theorem StepEffect.job_eq_of_idle (h : StepEffect s t) (hd : DispatchWf s) (hr : ¬ ResetComes s) {job : Job}
    (hj : s.job c = some job) (hi : decodeCode job.code = .ok i) (hidle : IdleInItsTurns s c i) :
    t.job c = some job := by
  rw [← hj]
  cases h with
  | quiet => rfl
  | dropped | noTurn | edge => exact State.job_congr rfl rfl c
  | command c' w rest he ha =>
    have hne : c ≠ c' := fun e => by simp [e ▸ State.job_of_accepts ha] at hj
    rw [State.job_setJob, if_neg hne]
    exact State.job_congr rfl rfl c
  | run c' d rest job' i' t he hj' hi' ht =>
    by_cases hc : c = c'
    · subst hc
      obtain rfl : job = job' := Option.some.inj (hj.symm.trans hj')
      obtain rfl : i = i' := Decoded.ok.inj (hi.symm.trans hi')
      rw [hidle d rest t ht, State.job_given]
    · rw [ht.job_other (by simp [hj']) hc, State.job_given]
  | illegal c' d rest job' w r he hj' hw hreject =>
    have hne : c ≠ c' := by
      rintro rfl
      obtain rfl : job = job' := Option.some.inj (hj.symm.trans hj')
      rw [hw] at hi
      cases hreject.symm.trans hi
    rw [State.job_answered, if_neg hne, State.job_given]
  | pass k d rest q t he hq ht => rw [ht.job_eq hq hd, State.job_given]
  | done k rest q he hl hq => exact State.job_clear_listener hl (by rfl) (by rfl) c
  | doneLate k rest he hl hq => exact State.job_clear_listener hl (by rfl) (by rfl) c
  | reset landed rest he => exact absurd ⟨landed, rest, he⟩ hr

/-- A pass whose own turns change nothing: it is stuck after a conflict, or awaits a DONE (R52, R219). -/
def Pass.waits (p : Pass) : Prop := p.phase = .stuck ∨ ∃ lid, p.phase = .awaitDone lid

theorem PassEffect.eq_of_waits (h : PassEffect j p s t) (hw : p.waits) : t = s := by
  cases h with
  | idle => rfl
  | _ => simp_all [Pass.waits]

/-- A step of a pass that is not fatal changes no other pass (R212, R223). -/
theorem PassEffect.pass_other {k : Nat} (h : PassEffect j p s t) (hl : t.lc ≠ .fatal) (hk : k ≠ j) :
    Sparse.read t.passes k = Sparse.read s.passes k := by
  cases h with
  | fails => exact absurd rfl hl
  | ends => simp [Sparse.read_clear, hk]
  | _ => simp [Sparse.read_write_other _ _ hk]

/-- A pass that is stuck, or awaits the DONE of a BUSY listener, is as before after every step but a reset and a fatal
one. -/
theorem StepEffect.pass_eq_of_waits (h : StepEffect s t) (hf : NamesFresh s) (hr : ¬ ResetComes s) (hl : t.lc ≠ .fatal)
    (hp : Sparse.read s.passes j = some p) (hw : p.waits) (hbusy : Sparse.read s.listeners j ≠ some none) :
    Sparse.read t.passes j = some p := by
  rw [← hp]
  cases h with
  | run c d rest job i t he hj hi ht => rw [ht.passes_eq, State.given_passes]
  | pass k d rest q t he hq ht =>
    by_cases hk : j = k
    · subst hk
      obtain rfl : p = q := Option.some.inj (hp.symm.trans hq)
      rw [ht.eq_of_waits hw, State.given_passes]
    · rw [ht.pass_other hl hk, State.given_passes]
  | edge x rest P queue he hready =>
    have hne : j ≠ s.nextPass := fun e => by simp [e, (hf s.nextPass le_rfl).1] at hp
    exact Sparse.read_write_other _ _ hne
  | done k rest q he hlis hq =>
    have hne : j ≠ k := fun e => hbusy (e ▸ hlis)
    exact Sparse.read_write_other _ _ hne
  | reset landed rest he => exact absurd ⟨landed, rest, he⟩ hr
  | _ => simp

theorem CtxStuck.step (h : CtxStuck s c) (ht : StepEffect s t) (hd : DispatchWf s) (hw : LifecycleWf s)
    (hr : ¬ ResetComes s) : CtxStuck t c := by
  obtain ⟨job, hj, hp⟩ := h
  obtain ⟨-, hpast, -⟩ := hw
  obtain ⟨-, i, hi, -⟩ := hpast c job hj (by simp [hp])
  exact ⟨job, ht.job_eq_of_idle hd hr hj hi (idleInItsTurns_of_stuck hj hp), hp⟩

theorem PassStuck.step (h : PassStuck s j) (ht : StepEffect s t) (hf : NamesFresh s) (hd : DispatchWf s)
    (hr : ¬ ResetComes s) (hl : t.lc ≠ .fatal) : PassStuck t j := by
  obtain ⟨p, hp, hphase⟩ := h
  have hno : Sparse.read s.listeners j = none := hd.no_listener hp (by simp [hphase])
  exact ⟨p, ht.pass_eq_of_waits hf hr hl hp (.inl hphase) (by simp [hno]), hphase⟩

/-- A pass and its listener's context that wait for each other: the command waits because the lock is HELD, and the lock
stays HELD because the pass awaits the DONE (R177). -/
theorem WaitsForOwnPass.step (h : WaitsForOwnPass s j) (ht : StepEffect s t) (hw : Dispatching s) (hr : ¬ ResetComes s)
    (hl : t.lc ≠ .fatal) : WaitsForOwnPass t j := by
  obtain ⟨p, lid, u, job, i, hp, hawait, hiter, hheld, hj, hwait, hi, hu⟩ := h
  have hbusy : Sparse.read s.listeners j ≠ some none := fun e => by simp [State.job, e] at hj
  have hp' : Sparse.read t.passes j = some p := ht.pass_eq_of_waits hw.names hr hl hp (.inr ⟨lid, hawait⟩) hbusy
  have hj' : t.job (.listener j) = some job :=
    ht.job_eq_of_idle hw.dispatches hr hj hi (idleInItsTurns_of_held hj hwait hu hheld)
  have hheld' : t.lock u = .held j := ((ht.dispatching hw).locks.held_iff hp' u).2 hiter
  exact ⟨p, lid, u, job, i, hp', hawait, hiter, hheld', hj', hwait, hi, hu⟩

/-- Settles O59: each way of being stuck is kept. -/
theorem stuckAgentsStayStuck : Obligations.StuckAgentsStayStuck := by
  intro s t hf hk hd hw hstep hr
  have ht : StepEffect s t := step_effect hstep
  have hwait : ∀ j, t.lc ≠ .fatal → WaitsForOwnPass s j → WaitsForOwnPass t j := fun j hl h =>
    h.step ht ⟨hf, hk, hd⟩ hr hl
  refine ⟨fun c h => h.step ht hd hw hr, fun hl a h => ?_⟩
  cases a with
  | ctx c => exact h.imp (·.step ht hd hw hr) fun ⟨j, hc, hown⟩ => ⟨j, hc, hwait j hl hown⟩
  | pass j => exact h.imp (·.step ht hf hd hr hl) (hwait j hl)

end Sys2Proof.Machine
end

section
/-! The decoder and the encoder against each other, and the legal words (R76 to R80, R82): what each check of the opcode map
answers for a word built from fields, then the two round trips, the first by instruction, the second row by row. -/

namespace Sys2Proof

variable {w : CmdWord} {f : FrameWord} {i : Instr}

-- ---- the checks of a row, on a word built from its fields (R77) ----

@[simp] theorem needZeroD_cmdWord (op a : Byte) (i : Instr) : needZeroD (cmdWord op a 0#16) i = .ok i :=
  needZeroD_eq_ok.2 ⟨rfl, dField_cmdWord op a 0⟩

@[simp] theorem needBitD_cmdWord (op a : Byte) (v : Bool) (i : Instr) : needBitD (cmdWord op a (vWord v)) i = .ok i :=
  needBitD_eq_ok.2 ⟨rfl, by simp⟩

@[simp] theorem needZeroA_cmdWord (op : Byte) (d : BitVec 16) (i : Instr) : needZeroA (cmdWord op 0#8 d) i = .ok i :=
  needZeroA_eq_ok.2 ⟨rfl, aField_cmdWord op 0 d⟩

@[simp] theorem needZeroAD_cmdWord (op : Byte) (i : Instr) : needZeroAD (cmdWord op 0#8 0#16) i = .ok i :=
  needZeroAD_eq_ok.2 ⟨rfl, dField_cmdWord op 0 0, aField_cmdWord op 0 0⟩

-- ---- pin operands (R73) ----

theorem pinOperandFits_iff {n : Nat} : pinOperandFits n = true ↔ n < 256 := decide_eq_true_iff

/-- Whatever field A holds fits it. -/
@[simp] theorem pinOperandFits_toNat (a : Byte) : pinOperandFits a.toNat = true := pinOperandFits_iff.2 a.isLt

-- ---- decode of encode ----

/-- Settles O2: the opcode selects the instruction's own row, whose check passes on the encoder's fields, and a pin operand
in range is what field A reads back. -/
theorem decodeOfEncodeIsTheInstruction : Obligations.DecodeOfEncodeIsTheInstruction := by
  intro i hwf
  cases i
  case busWrite addr value => simp [encode, decodeCode, decodeFrame]
  case busRead addr => simp [encode, decodeCode, decodeFrame, readOpcode, writeOpcode]
  all_goals
    simp only [Instr.wellFormed, pinOperandFits_iff] at hwf
    simp [encode, decodeCode, decode, hwf]

-- ---- encode of decode ----

/-- A frame that decodes is made of the bytes of the frame it decodes to (R82). -/
theorem encode_of_decodeFrame (h : decodeFrame f = .ok i) : encode i = .frame f := by
  unfold decodeFrame at h
  split_ifs at h with hw hr hf <;> cases h
  · rw [encode, writeFrame, ← hw, frame_bytes]
  · rw [encode, readFrame, ← hr, ← hf, frame_bytes]

/-- What decodes is well-formed: a pin operand is read from field A, which has no value out of range (R73). -/
theorem wellFormed_of_decode (h : decode w = .ok i) : i.wellFormed = true := by
  unfold decode at h
  split at h
  case h_29 | h_30 =>
    cases h
    exact pinOperandFits_toNat _
  case h_40 => cases h
  all_goals
    simp only [needZeroD_eq_ok, needZeroA_eq_ok, needZeroAD_eq_ok, needBitD_eq_ok] at h
    obtain ⟨rfl, -⟩ := h
    simp [Instr.wellFormed]

/-- A frame has no operand that could be out of range (R82). -/
theorem wellFormed_of_encode_frame (h : encode i = .frame f) : i.wellFormed = true := by
  cases i
  case busWrite | busRead => rfl
  all_goals cases h

/-- Settles O3: for a word field by field, for a frame byte by byte. -/
theorem encodeOfDecodeIsTheWord : Obligations.EncodeOfDecodeIsTheWord := by
  intro b i h
  cases b with
  | cmd w => exact ⟨encode_of_decode h, wellFormed_of_decode h⟩
  | frame f =>
    have hf : encode i = .frame f := encode_of_decodeFrame h
    exact ⟨hf, wellFormed_of_encode_frame hf⟩

-- ---- the legal words (R77) ----

theorem exists_needZeroD_eq_ok : (∃ j, needZeroD w i = .ok j) ↔ dField w = 0 := by simp [needZeroD_eq_ok]

theorem exists_needZeroA_eq_ok : (∃ j, needZeroA w i = .ok j) ↔ aField w = 0 := by simp [needZeroA_eq_ok]

theorem exists_needZeroAD_eq_ok : (∃ j, needZeroAD w i = .ok j) ↔ aField w = 0 ∧ dField w = 0 := by
  simp [needZeroAD_eq_ok, and_comm]

theorem exists_needBitD_eq_ok : (∃ j, needBitD w i = .ok j) ↔ (dField w).extractLsb' 1 15 = 0 := by
  unfold needBitD; split <;> simp_all

/-- The words that decode are the legal ones (R77, R78): row by row of the opcode map, the row's check is the condition that
`legal` sets for the row's opcode, and `legal` has no condition for an opcode without a row. -/
theorem legal_iff_decodes : legal w = true ↔ ∃ i, decode w = .ok i := by
  unfold decode
  split
  case h_40 => grind [legal]
  all_goals
    next ho =>
    simp [legal, ho, exists_needZeroD_eq_ok, exists_needZeroA_eq_ok, exists_needZeroAD_eq_ok, exists_needBitD_eq_ok]

end Sys2Proof
end

section
/-! A word that is no command (R77, R78, R246), and the response word (R71, R72). -/

namespace Sys2Proof.Machine

variable {s : State} {c : Ctx} {w : CmdWord}

theorem runJob_of_rejects {job : Job} {r : Reject} (hw : job.code = .cmd w) (hr : decode w = .reject r) :
    runJob job s = .next s.illegalCommand := by
  simp only [runJob, hw, decodeCode, hr]

theorem State.illegalCommand_ctx (h : s.cur = .ctx c) :
    s.illegalCommand = s.answered c (if s.lc = .fatal then 0x04 else 0x05) 0 := by
  rw [State.illegalCommand, State.raise_ctx h]
  split <;> rfl

/-- The turn of a context that was presented a word that is not legal (R77, R246). -/
theorem step_of_illegal {job : Job} {d : Draw} {rest : List EnvEvent} (hw : legal w = false)
    (hturn : TurnComes s (.ctx c) d rest) (hjob : s.job c = some job) (hcode : job.code = .cmd w) :
    step s = .next ((s.given (.ctx c) d rest).answered c (if s.lc = .fatal then 0x04 else 0x05) 0) := by
  have hjob' : (s.given (.ctx c) d rest).job c = some job := by rw [State.job_given, hjob]
  cases hdec : decode w with
  | ok i => exact absurd (legal_iff_decodes.2 ⟨i, hdec⟩) (by simp [hw])
  | reject r =>
    calc step s = takeTurn (.ctx c) (s.given (.ctx c) d rest) := step_of_turnComes hturn
      _ = runJob job (s.given (.ctx c) d rest) := takeTurn_ctx_of_busy hjob'
      _ = .next (s.given (.ctx c) d rest).illegalCommand := runJob_of_rejects hcode hdec
      _ = .next ((s.given (.ctx c) d rest).answered c (if s.lc = .fatal then 0x04 else 0x05) 0) := by
        rw [State.illegalCommand_ctx rfl, State.given_lc]

/-- Settles O4: the legal words are those with a row whose check passes, and the turn of any other is its one error
response. -/
theorem exactlyTheLegalWordsAreCommands : Obligations.ExactlyTheLegalWordsAreCommands :=
  ⟨fun _ => legal_iff_decodes, fun _ _ _ _ _ _ hw hturn hjob => step_of_illegal hw hturn hjob rfl⟩

/-- Settles O1: words written out, evaluated. -/
theorem decoderReadsTheSpecsWords : Obligations.DecoderReadsTheSpecsWords := by
  unfold Obligations.DecoderReadsTheSpecsWords
  decide

/-- A response word has the layout of a command word: its status in OP, its result in D, and A zero (R70, R71). -/
theorem responseWord_eq_cmdWord (st : Status) (r : BitVec 16) : responseWord st r = cmdWord (statusCode st) 0 r := rfl

/-- Settles O11: the three fields are those of the command word with the same layout. -/
theorem responseWordLayout : Obligations.ResponseWordLayout := by
  refine ⟨fun st r => ?_, rfl, rfl, rfl, rfl, rfl, rfl, rfl, rfl⟩
  rw [responseWord_eq_cmdWord]
  exact ⟨opField_cmdWord _ _ _, aField_cmdWord _ _ _, dField_cmdWord _ _ _⟩

end Sys2Proof.Machine
end

section
/-! Pins, their port and bit index (R90 to R93, R97, R98), and what bit selection and bit insertion do to each bit of a byte
(R94 to R96). -/

namespace Sys2Proof.Machine

-- ---- identifiers (R90) ----

theorem fromIdentifier_eq_none_iff {n : Nat} : fromIdentifier n = none ↔ 15 < n := by
  rw [fromIdentifier, dite_eq_right_iff]
  grind

@[simp] theorem fromIdentifier_val (p : Pin) : fromIdentifier p.val = some p := dif_pos p.isLt

-- ---- port and bit index (R91, R92, R97, R98) ----

theorem portOf_eq_ite (p : Pin) : portOf p = if p.val ≤ 7 then .A else .B := by
  rw [portOf_eq_portFor, portFor]
  exact if_congr Nat.lt_succ_iff rfl rfl

theorem portOf_eq_A_iff {p : Pin} : portOf p = .A ↔ p.val ≤ 7 := by
  rw [portOf_eq_ite]
  split <;> simp_all

theorem bitIndex_lt (p : Pin) : bitIndex p < 8 := Nat.mod_lt _ (by decide)

@[simp] theorem portOf_pinOf (P : Port) (i : Fin 8) : portOf (pinOf P i) = P := by
  cases P with
  | A => exact if_neg (Nat.not_le.2 i.isLt)
  | B => exact if_pos (Nat.le_add_right 8 i.val)

@[simp] theorem bitIndex_pinOf (P : Port) (i : Fin 8) : bitIndex (pinOf P i) = i.val := by
  cases P with
  | A => exact Nat.mod_eq_of_lt i.isLt
  | B => exact (Nat.add_mod_left 8 i.val).trans (Nat.mod_eq_of_lt i.isLt)

/-- Pins on one port are in one half of the identifiers. -/
theorem val_le_seven_iff_of_portOf_eq {p q : Pin} (h : portOf p = portOf q) : p.val ≤ 7 ↔ q.val ≤ 7 := by
  rw [← portOf_eq_A_iff, h, portOf_eq_A_iff]

/-- No two pins have the same port and bit index (R98). -/
theorem pin_ext {p q : Pin} (hport : portOf p = portOf q) (hbit : bitIndex p = bitIndex q) : p = q := by
  have hhalf : p.val ≤ 7 ↔ q.val ≤ 7 := val_le_seven_iff_of_portOf_eq hport
  simp only [bitIndex] at hbit
  ext
  omega

/-- Pins n and n + 8 are on different ports (R93). -/
theorem portOf_ne_of_val_add_eight {p q : Pin} (h : q.val = p.val + 8) : portOf p ≠ portOf q := by
  intro hport
  have hhalf : p.val ≤ 7 ↔ q.val ≤ 7 := val_le_seven_iff_of_portOf_eq hport
  omega

/-- Pins n and n + 8 have the same bit index (R93). -/
theorem bitIndex_eq_of_val_add_eight {p q : Pin} (h : q.val = p.val + 8) : bitIndex p = bitIndex q := by
  simp [bitIndex, h]

-- ---- the mask (R93) ----

theorem maskOf_eq_twoPow (p : Pin) : maskOf p = BitVec.twoPow 8 (bitIndex p) := rfl

theorem maskOf_congr {p q : Pin} (h : bitIndex p = bitIndex q) : maskOf p = maskOf q := by rw [maskOf, maskOf, h]

/-- The mask has exactly the pin's bit. -/
@[simp] theorem getLsbD_maskOf (p : Pin) (j : Nat) : (maskOf p).getLsbD j = decide (j = bitIndex p) := by
  rw [maskOf_eq_twoPow, BitVec.getLsbD_twoPow, decide_eq_true (bitIndex_lt p), Bool.true_and]
  exact decide_eq_decide.2 eq_comm

theorem maskOf_ne_zero (p : Pin) : maskOf p ≠ 0 := fun h => by simpa [h] using getLsbD_maskOf p (bitIndex p)

/-- Settles O8: the pins are the numbers below 16, the two attributes are a number's quotient and remainder by 8, and the
mask is the power of two of the remainder. -/
theorem pinsArePortsAndBits : Obligations.PinsArePortsAndBits := by
  refine ⟨fun _ => fromIdentifier_eq_none_iff, fromIdentifier_val, fun p => ⟨portOf_eq_ite p, rfl, getLsbD_maskOf p⟩,
    fun p q h => ⟨maskOf_congr (bitIndex_eq_of_val_add_eight h), portOf_ne_of_val_add_eight h⟩,
    fun P i => ⟨portOf_pinOf P i, bitIndex_pinOf P i⟩, fun P i p hport hbit => ?_⟩
  exact pin_ext (hport.trans (portOf_pinOf P i).symm) (hbit.trans (bitIndex_pinOf P i).symm)

-- ---- bit selection and bit insertion (R95, R96) ----

/-- Bit selection is the pin's bit of the byte (R95). -/
theorem getBit_eq_getLsbD (p : Pin) (b : Byte) : getBit p b = b.getLsbD (bitIndex p) := by
  rw [getBit, maskOf_eq_twoPow, BitVec.and_twoPow, ← maskOf_eq_twoPow]
  cases b.getLsbD (bitIndex p) with
  | true => exact bne_iff_ne.2 (maskOf_ne_zero p)
  | false => rfl

/-- Every bit of a byte after bit insertion: the pin's bit is the value, the others are as before (R96). -/
theorem getLsbD_setBit (p : Pin) (b : Byte) (v : Bool) {j : Nat} (hj : j < 8) :
    (setBit p b v).getLsbD j = if j = bitIndex p then v else b.getLsbD j := by
  cases v with
  | true =>
    have hor : (setBit p b true).getLsbD j = (b.getLsbD j || decide (j = bitIndex p)) := by
      rw [setBit, if_pos rfl, BitVec.getLsbD_or, getLsbD_maskOf]
    rw [hor]
    split <;> simp [*]
  | false =>
    have hand : (setBit p b false).getLsbD j = (b.getLsbD j && !decide (j = bitIndex p)) := by
      rw [setBit, if_neg Bool.false_ne_true, BitVec.getLsbD_and, BitVec.getLsbD_not, getLsbD_maskOf, decide_eq_true hj,
        Bool.true_and]
    rw [hand]
    split <;> simp [*]

@[simp] theorem getBit_setBit (p : Pin) (b : Byte) (v : Bool) : getBit p (setBit p b v) = v := by
  rw [getBit_eq_getLsbD, getLsbD_setBit p b v (bitIndex_lt p), if_pos rfl]

/-- Settles O9: the laws of bit insertion are read off the bits of the byte it returns. -/
theorem bitSelectionAndInsertion : Obligations.BitSelectionAndInsertion := by
  intro p b b' v
  refine ⟨rfl, getBit_eq_getLsbD p b, rfl, getBit_setBit p b v, fun j hj hne => ?_⟩
  rw [getLsbD_setBit p b v hj, if_neg hne]

end Sys2Proof.Machine
end

section
/-! GET_PIN_VIEW (R99). -/

namespace Sys2Proof.Machine

variable {s : State} {c : Ctx}

/-- The decode step of GET_PIN_VIEW in a ready block is the check of its pin and the response of the handle (R99). -/
theorem exec_getPinView_of_decoding (hd : Decoding s c) (hl : s.lc = .ready) (n : Nat) :
    exec (.getPinView n) s = .next (s.withPin n fun p s => s.respond (handleResult p)) := by
  have harm : exec (.getPinView n) s = execGetPinView n s := rfl
  obtain ⟨-, hphase⟩ := hd
  rw [harm, execGetPinView, hphase]
  exact congrArg _ (State.enter_ready hl _)

/-- Settles O19: the pin check passes for n up to 15 and raises InvalidPin from 16; either way the step is one response. -/
theorem getPinViewRespondsTheHandle : Obligations.GetPinViewRespondsTheHandle := by
  refine fun n => ⟨rfl, fun c s hd hl => ?_⟩
  rw [exec_getPinView_of_decoding hd hl]
  obtain ⟨hcur, -⟩ := hd
  by_cases hn : n ≤ 15
  · rw [State.withPin_valid (Nat.lt_succ_of_le hn), State.respond_ctx hcur, if_pos hn]
    rfl
  · rw [State.withPin_invalid (by omega), State.raise_ctx hcur, if_neg hn]
    rfl

end Sys2Proof.Machine
end

section
/-! A pin command's pin, and the pin's bit of the shadow file (R21, R22, R90, R94, R95). -/

namespace Sys2Proof.Machine

variable {s : State}

theorem State.withPin_val (p : Pin) (k : Pin → State → State) : s.withPin p.val k = k p s := State.withPin_valid p.isLt k

/-- The port multiplexer over a concern's pair picks the byte of the pin's port (R94). -/
theorem Shadow.resolveByte_get (sr : Shadow) (k : Concern) (p : Pin) :
    resolveByte p (sr.get k .A) (sr.get k .B) = sr.get k (portOf p) := by
  cases hport : portOf p <;> simp [resolveByte, hport]

/-- A pin's shadow bit is the bit of its port's byte at its bit index (R22, R110). -/
theorem Shadow.pinBit_eq_getLsbD (sr : Shadow) (k : Concern) (p : Pin) :
    sr.pinBit k p = (sr.get k (portFor p.val)).getLsbD (p.val % 8) := by
  rw [Shadow.pinBit, Shadow.resolveByte_get, getBit_eq_getLsbD, portOf_eq_portFor, bitIndex]

/-- Every bit of the shadow file after bit insertion into a byte `b` is written to the byte of the pin (R22, R96). -/
theorem Shadow.getLsbD_get_set_setBit (sr : Shadow) (k k' : Concern) (p : Pin) (P' : Port) (b : Byte) (v : Bool) {j : Nat}
    (hj : j < 8) :
    ((sr.set k (portOf p) (setBit p b v)).get k' P').getLsbD j =
      if k' = k ∧ P' = portOf p then if j = bitIndex p then v else b.getLsbD j else (sr.get k' P').getLsbD j := by
  rw [Shadow.get_set, apply_ite (BitVec.getLsbD · j), getLsbD_setBit p b v hj]

end Sys2Proof.Machine
end

section
/-! The configuration getters (R110 to R116). -/

namespace Sys2Proof.Machine

variable {s : State} {c : Ctx} {k : Concern}

theorem encode_getterOf (k : Concern) (n : Nat) :
    encode (getterOf k n) = .cmd (cmdWord (0x10 ||| concernIndex k) (BitVec.ofNat 8 n) 0) := by
  cases k <;> rfl

/-- Every getter but OLAT's, which is GET, is the getter template for its concern (R111 to R116). -/
theorem exec_getterOf (hk : k ≠ .olat) (n : Nat) : exec (getterOf k n) s = .next (getter k n s) := by
  cases k with
  | olat => exact absurd rfl hk
  | _ => rfl

theorem getter_of_decoding (hd : Decoding s c) (hl : s.lc = .ready) (n : Nat) :
    getter k n s = s.withPin n fun p s => s.respond (boolResult (s.sr.pinBit k p)) := by
  obtain ⟨-, hphase⟩ := hd
  simp only [getter, hphase, State.enter_ready hl]

/-- Settles O16: the pin check passes for n up to 15 and raises InvalidPin from 16; either way the step is one response. -/
theorem configGettersRespondTheShadowBit : Obligations.ConfigGettersRespondTheShadowBit := by
  refine fun k n hk => ⟨encode_getterOf k n, fun c s hd hl => ?_⟩
  rw [exec_getterOf hk, getter_of_decoding hd hl]
  obtain ⟨hcur, -⟩ := hd
  by_cases hn : n ≤ 15
  · lift n to Pin using Nat.lt_succ_of_le hn
    rw [State.withPin_val, State.respond_ctx hcur, Shadow.pinBit_eq_getLsbD, if_pos hn]
    rfl
  · rw [State.withPin_invalid (by omega), State.raise_ctx hcur, if_neg hn]
    rfl

end Sys2Proof.Machine
end

section
/-! GET on an output pin and on an input pin (R117). -/

namespace Sys2Proof.Machine

variable {s : State} {c : Ctx}

/-- The decode step of GET in a ready block: the shadow's direction bit decides whether a frame follows (R117 step 1). -/
theorem exec_get_of_decoding (hd : Decoding s c) (hl : s.lc = .ready) (p : Pin) :
    exec (.get p.val) s = .next (if (s.sr.get .iodir (portFor p.val)).getLsbD (p.val % 8) then
      s.waiting c (.get p.val) .frameReady
      else s.answered c 0x00 (boolResult ((s.sr.get .olat (portFor p.val)).getLsbD (p.val % 8)))) := by
  have harm : exec (.get p.val) s = .next (getValue p.val s) := rfl
  obtain ⟨hcur, hphase⟩ := hd
  rw [harm, getValue, hphase]
  simp only [State.enter_ready hl, State.withPin_val, Shadow.pinBit_eq_getLsbD, State.hold_ctx hcur,
    State.respond_ctx hcur]

/-- The last step of GET: the pin's bit of the byte read, as it is, or IOFailure (R117 step 3). -/
theorem exec_get_of_frameBegun (h : InPhase s c .frameBegun) (p : Pin) :
    exec (.get p.val) s = .next (s.endFrame fun r s => s.respond (boolResult (r.getLsbD (bitIndex p)))) := by
  have harm : exec (.get p.val) s = .next (getValue p.val s) := rfl
  obtain ⟨-, hphase⟩ := h
  rw [harm, getValue, hphase]
  simp only [State.withPin_val, getBit_eq_getLsbD]

/-- The frame that reads a pin's GPIO register: 41 12 00 on port A, 41 13 00 on port B (R41, R45, R117). -/
theorem readFrame_addrGpio_portOf (p : Pin) :
    readFrame (addrGpio (portOf p)) = (0x41 : Byte) ++ (if p.val ≤ 7 then 0x12 else 0x13 : Byte) ++ (0x00 : Byte) := by
  rw [portOf_eq_ite]
  split <;> rfl

/-- Settles O17: with the direction bit 0 the decode step of GET is its response. -/
theorem getOnAnOutputPinReadsTheShadow : Obligations.GetOnAnOutputPinReadsTheShadow := by
  intro n c s hn hd hl hdir
  lift n to Pin using Nat.lt_succ_of_le hn
  rw [exec_get_of_decoding hd hl, hdir]
  rfl

/-- Settles O18: the three steps of GET with the direction bit 1; the last one ends a read frame, which leaves the chip's
registers alone. -/
theorem getOnAnInputPinReadsTheChip : Obligations.GetOnAnInputPinReadsTheChip := by
  intro n c s hn
  lift n to Pin using Nat.lt_succ_of_le hn
  refine ⟨fun hd hl hdir => ?decode, fun h hb => ?begins, fun a r0 r1 r2 h hb ho => ?ok, fun a landed h hb ho => ?fail⟩
  case decode => rw [exec_get_of_decoding hd hl, if_pos hdir]
  case begins => rw [exec_get_of_frameReady n.isLt h, State.beginFrame_idle h.1 hb, readFrame_addrGpio_portOf]
  case ok =>
    have hcur : s.released.cur = .ctx c := h.1
    rw [exec_get_of_frameBegun h, State.endFrame_ok ho, State.frameEnd_of_readFrame hb, State.respond_ctx hcur]
    rfl
  case fail =>
    have hcur : s.released.cur = .ctx c := h.1
    rw [exec_get_of_frameBegun h, State.endFrame_fail ho, State.frameEnd_of_readFrame hb, State.raise_ctx hcur]
    rfl

end Sys2Proof.Machine
end

section
/-! The two steps of a setter, the read and the write (R118 to R125). -/

namespace Sys2Proof.Machine

variable {s : State} {c : Ctx} {k : Concern} {v : Bool}

theorem encode_setterOf (k : Concern) (n : Nat) (v : Bool) :
    encode (setterOf k n v) =
      .cmd (cmdWord (0x20 ||| concernIndex k) (BitVec.ofNat 8 n) (if v then 1 else 0)) := by
  cases k <;> rfl

/-- A setter is the setter template for its concern (R119 to R125). -/
theorem exec_setterOf (k : Concern) (n : Nat) (v : Bool) :
    exec (setterOf k n v) s = .next (setter (setterOf k n v) k n v s) := by
  cases k <;> rfl

theorem setter_of_decoding {i : Instr} (hd : Decoding s c) (hl : s.lc = .ready) (n : Nat) :
    setter i k n v s = s.withPin n fun p s => s.hold i (.setterRead (s.sr.get k (portOf p))) := by
  obtain ⟨-, hphase⟩ := hd
  simp only [setter, hphase, State.enter_ready hl]

/-- The read step of a setter (R118 step 1). -/
theorem exec_setterOf_reads (hd : Decoding s c) (hl : s.lc = .ready) (p : Pin) :
    exec (setterOf k p.val v) s =
      .next (s.waiting c (setterOf k p.val v) (.setterRead (s.sr.get k (portOf p)))) := by
  rw [exec_setterOf, setter_of_decoding hd hl, State.withPin_val, State.hold_ctx hd.1]

theorem exec_setterOf_invalid (hd : Decoding s c) (hl : s.lc = .ready) {n : Nat} (hn : ¬ n < 16) :
    exec (setterOf k n v) s = .next (s.answered c 0x01 0) := by
  rw [exec_setterOf, setter_of_decoding hd hl, State.withPin_invalid hn, State.raise_ctx hd.1]
  rfl

/-- The write step of a setter that has read the byte `b` (R118 step 2). -/
theorem exec_setterOf_writes {b : Byte} (h : InPhase s c (.setterRead b)) (p : Pin) :
    exec (setterOf k p.val v) s =
      .next { s.answered c 0x00 0 with sr := s.sr.set k (portOf p) (setBit p b v) } := by
  obtain ⟨hcur, hphase⟩ := h
  rw [exec_setterOf, setter, hphase]
  simp only [State.withPin_val]
  rw [State.respond_ctx (by exact hcur), State.answered_with_sr]

/-- Settles O20: the byte written is the byte read with one bit inserted, and a write of one byte leaves the others. -/
theorem settersWriteOneBit : Obligations.SettersWriteOneBit := by
  refine fun k n v => ⟨encode_setterOf k n v, fun c s => ⟨fun hd hl => ?reads, fun b hn h => ?writes⟩⟩
  case reads =>
    by_cases hn : n ≤ 15
    · lift n to Pin using Nat.lt_succ_of_le hn
      rw [exec_setterOf_reads hd hl, if_pos hn, portOf_eq_portFor]
    · rw [exec_setterOf_invalid hd hl (by omega), if_neg hn]
  case writes =>
    lift n to Pin using Nat.lt_succ_of_le hn
    rw [← portOf_eq_portFor]
    refine ⟨_, exec_setterOf_writes h n, rfl, fun j hj => ?_, fun k' P' hother => ?_⟩
    · rw [Shadow.getLsbD_get_set_setBit _ _ _ _ _ _ _ hj, if_pos ⟨rfl, rfl⟩, bitIndex]
    · rw [Shadow.get_set, if_neg hother]

end Sys2Proof.Machine
end

section
/-! Setters run step by step, alone and interleaved (R118, R126, R127): the state after a read and after a write, and what
other contexts see of it. -/

namespace Sys2Proof.Machine

variable {s t : State} {c c' : Ctx} {k : Concern} {p p' : Pin} {v v' : Bool} {b b' : Byte}

/-- Context `c` has taken the read step of its setter (R118 step 1). -/
def State.setterReads (s : State) (c : Ctx) (k : Concern) (p : Pin) (v : Bool) : State :=
  ({ s with cur := .ctx c } : State).waiting c (setterOf k p.val v) (.setterRead (s.sr.get k (portOf p)))

/-- Context `c` has taken the write step of its setter, which had read the byte `b` (R118 step 2). -/
def State.setterWrites (s : State) (c : Ctx) (k : Concern) (p : Pin) (v : Bool) (b : Byte) : State :=
  { ({ s with cur := .ctx c } : State).answered c 0x00 0 with sr := s.sr.set k (portOf p) (setBit p b v) }

/-- Context `c` is between the two steps of its setter and has read the byte `b` (R36, R118). -/
def SetterHasRead (s : State) (c : Ctx) (b : Byte) : Prop := ∃ code, s.job c = some { code := code, phase := .setterRead b }

-- ---- the phases of a context, from its job ----

theorem State.job_with_cur (a : Agent) (c : Ctx) : ({ s with cur := a } : State).job c = s.job c :=
  State.job_congr rfl rfl c

theorem ReadyFor.decoding (h : ReadyFor s c) : Decoding { s with cur := .ctx c } c := ⟨rfl, h⟩

theorem Decoding.readyFor (h : Decoding s c) : ReadyFor s c := by
  obtain ⟨hcur, hphase⟩ := h
  rwa [ReadyFor, ← hcur]

theorem ReadyFor.congr (h : ReadyFor s c) (hj : t.job c = s.job c) : ReadyFor t c := by
  rw [ReadyFor, State.phase_ctx rfl, State.job_with_cur] at h ⊢
  rwa [hj]

theorem SetterHasRead.inPhase (h : SetterHasRead s c b) : InPhase { s with cur := .ctx c } c (.setterRead b) := by
  obtain ⟨code, hj⟩ := h
  exact ⟨rfl, by rw [State.phase_ctx rfl, State.job_with_cur, hj]⟩

theorem SetterHasRead.congr (h : SetterHasRead s c b) (hj : t.job c = s.job c) : SetterHasRead t c b := by
  rwa [SetterHasRead, hj]

-- ---- the read step ----

theorem runAs_setterOf_reads (h : ReadyFor s c) (hl : s.lc = .ready) :
    runAs c (setterOf k p.val v) (.next s) = .next (s.setterReads c k p v) :=
  exec_setterOf_reads h.decoding hl p

@[simp] theorem State.setterReads_sr : (s.setterReads c k p v).sr = s.sr := by simp [State.setterReads]

@[simp] theorem State.setterReads_lc : (s.setterReads c k p v).lc = s.lc := by simp [State.setterReads]

theorem State.job_setterReads_other (hc : c' ≠ c) : (s.setterReads c k p v).job c' = s.job c' := by
  rw [State.setterReads, State.job_waiting, if_neg hc, State.job_with_cur]

theorem setterHasRead_setterReads : SetterHasRead (s.setterReads c k p v) c (s.sr.get k (portOf p)) :=
  ⟨_, by rw [State.setterReads, State.job_waiting, if_pos rfl]⟩

-- ---- the write step ----

theorem runAs_setterOf_writes (h : SetterHasRead s c b) :
    runAs c (setterOf k p.val v) (.next s) = .next (s.setterWrites c k p v b) :=
  exec_setterOf_writes h.inPhase p

@[simp] theorem State.setterWrites_sr : (s.setterWrites c k p v b).sr = s.sr.set k (portOf p) (setBit p b v) := rfl

@[simp] theorem State.setterWrites_lc : (s.setterWrites c k p v b).lc = s.lc := by simp [State.setterWrites]

theorem State.job_setterWrites : (s.setterWrites c k p v b).job c' = if c' = c then none else s.job c' :=
  calc (s.setterWrites c k p v b).job c'
    _ = (({ s with cur := .ctx c } : State).answered c 0x00 0).job c' := State.job_congr rfl rfl c'
    _ = if c' = c then none else s.job c' := by rw [State.job_answered, State.job_with_cur]

/-- The byte that a setter's write step leaves: the byte it had read, with its bit inserted (R118). -/
theorem State.get_setterWrites : (s.setterWrites c k p v b).sr.get k (portOf p) = setBit p b v := by
  rw [State.setterWrites_sr, Shadow.get_set, if_pos ⟨rfl, rfl⟩]

-- ---- a setter alone ----

/-- Context `c` has run its whole setter with nothing in between (R126). -/
def State.setterRuns (s : State) (c : Ctx) (k : Concern) (p : Pin) (v : Bool) : State :=
  (s.setterReads c k p v).setterWrites c k p v (s.sr.get k (portOf p))

theorem runAs_setterOf_twice (h : ReadyFor s c) (hl : s.lc = .ready) :
    runAs c (setterOf k p.val v) (runAs c (setterOf k p.val v) (.next s)) = .next (s.setterRuns c k p v) := by
  rw [runAs_setterOf_reads h hl, runAs_setterOf_writes setterHasRead_setterReads, State.setterRuns]

@[simp] theorem State.setterRuns_lc : (s.setterRuns c k p v).lc = s.lc := by simp [State.setterRuns]

theorem State.job_setterRuns_self : (s.setterRuns c k p v).job c = none := by
  rw [State.setterRuns, State.job_setterWrites, if_pos rfl]

theorem State.job_setterRuns_other (hc : c' ≠ c) : (s.setterRuns c k p v).job c' = s.job c' := by
  rw [State.setterRuns, State.job_setterWrites, if_neg hc, State.job_setterReads_other hc]

/-- A setter alone inserts its bit into the byte as it was (R126). -/
theorem State.get_setterRuns : (s.setterRuns c k p v).sr.get k (portOf p) = setBit p (s.sr.get k (portOf p)) v :=
  State.get_setterWrites

/-- A setter alone changes one bit of the shadow file (R126). -/
theorem State.getLsbD_setterRuns (k' : Concern) (P' : Port) {j : Nat} (hj : j < 8) :
    ((s.setterRuns c k p v).sr.get k' P').getLsbD j =
      if k' = k ∧ P' = portOf p ∧ j = bitIndex p then v else (s.sr.get k' P').getLsbD j := by
  rw [State.setterRuns, State.setterWrites_sr, State.setterReads_sr, Shadow.getLsbD_get_set_setBit _ _ _ _ _ _ _ hj]
  by_cases hbyte : k' = k ∧ P' = portOf p
  · obtain ⟨rfl, rfl⟩ := hbyte
    simp
  · rw [if_neg hbyte, if_neg fun ⟨hk, hP, _⟩ => hbyte ⟨hk, hP⟩]

/-- Settles O21: the state after the two steps, bit by bit in SR and field by field otherwise. -/
theorem setterAloneChangesOneBit : Obligations.SetterAloneChangesOneBit := by
  intro k n v c s hn hd hl
  lift n to Pin using Nat.lt_succ_of_le hn
  refine ⟨_, runAs_setterOf_twice hd.readyFor hl, fun k' P' j hj => ?sr, ?_, State.job_setterRuns_self, ?_, ?_, ?_, ?_, ?_,
    ?_, ?_, ?_, ?_, ?_, ?_, fun c' hc => State.job_setterRuns_other hc⟩
  case sr => rw [State.getLsbD_setterRuns k' P' hj, portOf_eq_portFor, bitIndex]
  all_goals simp [State.setterRuns, State.setterReads, State.setterWrites]

-- ---- two setters on one byte ----

/-- Two setters on one byte, whose reads come before any write, have read the same byte (R127). -/
theorem both_setters_have_read (hc : c' ≠ c) (hport : portOf p' = portOf p) (h : ReadyFor s c) (h' : ReadyFor s c')
    (hl : s.lc = .ready) :
    ∃ t, runAs c' (setterOf k p'.val v') (runAs c (setterOf k p.val v) (.next s)) = .next t ∧
      SetterHasRead t c (s.sr.get k (portOf p)) ∧ SetterHasRead t c' (s.sr.get k (portOf p)) := by
  have hready : ReadyFor (s.setterReads c k p v) c' := h'.congr (State.job_setterReads_other hc)
  have hbyte : (s.setterReads c k p v).sr.get k (portOf p') = s.sr.get k (portOf p) := by
    rw [State.setterReads_sr, hport]
  refine ⟨_, by rw [runAs_setterOf_reads h hl, runAs_setterOf_reads hready (by simpa using hl)], ?_, ?_⟩
  · exact setterHasRead_setterReads.congr (State.job_setterReads_other hc.symm)
  · exact hbyte ▸ setterHasRead_setterReads

/-- Two setters have both read before either writes: the write that comes second leaves the byte that its own setter had
read with its own bit inserted, and the first write is lost (R127). -/
theorem second_write_wins (hc : c' ≠ c) (hport : portOf p' = portOf p) (h : SetterHasRead s c b)
    (h' : SetterHasRead s c' b') :
    ∃ t, runAs c' (setterOf k p'.val v') (runAs c (setterOf k p.val v) (.next s)) = .next t ∧
      t.sr.get k (portOf p) = setBit p' b' v' := by
  have hread : SetterHasRead (s.setterWrites c k p v b) c' b' := h'.congr (by rw [State.job_setterWrites, if_neg hc])
  refine ⟨_, by rw [runAs_setterOf_writes h, runAs_setterOf_writes hread], ?_⟩
  rw [← hport, State.get_setterWrites]

/-- Settles O22: the two interleavings have both reads first, and then the second write wins; one after the other, the
second setter reads what the first has left. -/
theorem concurrentSettersLoseAnUpdate : Obligations.ConcurrentSettersLoseAnUpdate := by
  intro k p₁ p₂ v₁ v₂ c₁ c₂ s hport hc hready₁ hready₂ hl i₁ i₂ b₀
  obtain ⟨t, hreads, hread₁, hread₂⟩ := both_setters_have_read hc.symm hport.symm hready₁ hready₂ hl
  refine ⟨?write₁_write₂, ?write₂_write₁, ?sequential⟩
  case write₁_write₂ =>
    rw [hreads]
    exact second_write_wins hc.symm hport.symm hread₁ hread₂
  case write₂_write₁ =>
    rw [hreads, hport]
    exact second_write_wins hc hport hread₂ hread₁
  case sequential =>
    have hready : ReadyFor (s.setterRuns c₁ k p₁ v₁) c₂ := hready₂.congr (State.job_setterRuns_other hc.symm)
    refine ⟨_, by rw [runAs_setterOf_twice hready₁ hl, runAs_setterOf_twice hready (by simpa using hl)], ?_⟩
    rw [hport, State.get_setterRuns, ← hport, State.get_setterRuns]

end Sys2Proof.Machine
end

section
/-! The two steps of a commit, FrameBegin and FrameEnd with its response (R140 to R154). -/

namespace Sys2Proof.Machine

variable {s : State} {c : Ctx} {k : Concern} {P : Port}

theorem encode_commitOf (k : Concern) (P : Port) :
    encode (commitOf k P) = .cmd (cmdWord (0x30 ||| (portNumber P <<< 3) ||| concernIndex k) 0 0) := by
  cases P <;> cases k <;> rfl

theorem commit_of_frameBegun {i : Instr} (h : InPhase s c .frameBegun) :
    commit i k P s = s.endFrame fun _ s => s.respond 0 := by
  obtain ⟨-, hphase⟩ := h
  simp only [commit, hphase]

/-- The first step of a commit samples the shadow byte into the frame it begins (R140). -/
theorem exec_commitOf_begins (h : Decoding s c) (hl : s.lc = .ready) (hb : s.bus = .idle) :
    exec (commitOf k P) s = .next ((s.framed (.ctx c) (writeFrame (concernAddr k P) (s.sr.get k P))).waiting c
      (commitOf k P) .frameBegun) := by
  rw [exec_commitOf, commit_of_decoding h hl, State.beginFrame_idle h.1 hb]

theorem exec_commitOf_ends_ok (h : InPhase s c .frameBegun) {r0 r1 r2 : Byte} (ho : s.draw.frame = .ok r0 r1 r2) :
    exec (commitOf k P) s = .next (s.frameEnd.answered c 0x00 0) := by
  have hcur : s.frameEnd.cur = .ctx c := h.1
  rw [exec_commitOf, commit_of_frameBegun h, State.endFrame_ok ho, State.respond_ctx hcur]

theorem exec_commitOf_ends_fail (h : InPhase s c .frameBegun) {landed : Bool} (ho : s.draw.frame = .fail landed) :
    exec (commitOf k P) s = .next (s.frameEnd.answered c 0x03 0) := by
  have hcur : s.frameEnd.cur = .ctx c := h.1
  rw [exec_commitOf, commit_of_frameBegun h, State.endFrame_fail ho, State.raise_ctx hcur]
  rfl

/-- Settles O23: the first step is a FrameBegin; the second is the response after a write frame's end, whose effect on the
chip is `read_chipAfter_writeFrame_ok` or `read_chipAfter_writeFrame_fail`. -/
theorem commitsSendTheShadowByte : Obligations.CommitsSendTheShadowByte := by
  refine fun k P => ⟨encode_commitOf k P, fun c s => ⟨fun hd hl hb => exec_commitOf_begins hd hl hb,
    fun a b r0 r1 r2 h hb ho => ⟨_, exec_commitOf_ends_ok h ho, ?ok⟩,
    fun a b landed h hb ho => ⟨_, exec_commitOf_ends_fail h ho, ?fail⟩⟩⟩
  case ok =>
    rw [State.frameEnd_answered, ho, hb]
    exact ⟨rfl, read_chipAfter_writeFrame_ok (.ctx c) a b r0 r1 r2 s.chip⟩
  case fail =>
    rw [State.frameEnd_answered, ho, hb]
    exact ⟨rfl, read_chipAfter_writeFrame_fail (.ctx c) a b landed s.chip⟩

end Sys2Proof.Machine
end

section
/-! A commit run step by step, with a setter's write between its two steps (R155, R277). -/

namespace Sys2Proof.Machine

variable {s : State} {c c' : Ctx} {k : Concern} {P : Port} {p : Pin} {v : Bool} {b : Byte}

/-- Context `c` has taken the first step of its commit (R140). -/
def State.commitBegins (s : State) (c : Ctx) (k : Concern) (P : Port) : State :=
  (({ s with cur := .ctx c } : State).framed (.ctx c) (writeFrame (concernAddr k P) (s.sr.get k P))).waiting c
    (commitOf k P) .frameBegun

/-- Context `c` has ended the frame of its commit with OK (R140). -/
def State.commitEnds (s : State) (c : Ctx) : State := ({ s with cur := .ctx c } : State).frameEnd.answered c 0x00 0

-- ---- the first step ----

theorem runAs_commitOf_begins (h : ReadyFor s c) (hl : s.lc = .ready) (hb : s.bus = .idle) :
    runAs c (commitOf k P) (.next s) = .next (s.commitBegins c k P) :=
  exec_commitOf_begins h.decoding hl hb

@[simp] theorem State.commitBegins_draw : (s.commitBegins c k P).draw = s.draw := by simp [State.commitBegins]

@[simp] theorem State.commitBegins_bus :
    (s.commitBegins c k P).bus = .busy (.ctx c) (writeFrame (concernAddr k P) (s.sr.get k P)) := by
  simp [State.commitBegins]

theorem State.job_commitBegins : (s.commitBegins c k P).job c' =
    if c' = c then some { code := encode (commitOf k P), phase := .frameBegun } else s.job c' := by
  rw [State.commitBegins, State.job_waiting, State.job_framed, State.job_with_cur]

theorem hasBegun_commitBegins : HasBegun (s.commitBegins c k P) (.ctx c) :=
  ⟨_, by rw [State.job_commitBegins, if_pos rfl], rfl⟩

-- ---- a setter's write while the frame is begun ----

@[simp] theorem State.setterWrites_draw : (s.setterWrites c k p v b).draw = s.draw := by simp [State.setterWrites]

@[simp] theorem State.setterWrites_bus : (s.setterWrites c k p v b).bus = s.bus := by simp [State.setterWrites]

theorem HasBegun.setterWrites_other (h : HasBegun s (.ctx c)) (hc : c ≠ c') :
    HasBegun (s.setterWrites c' k p v b) (.ctx c) := by
  obtain ⟨job, hjob, hphase⟩ := h
  exact ⟨job, by rw [State.job_setterWrites, if_neg hc, hjob], hphase⟩

-- ---- the second step ----

theorem HasBegun.inPhase (h : HasBegun s (.ctx c)) : InPhase { s with cur := .ctx c } c .frameBegun := by
  obtain ⟨job, hjob, hphase⟩ := h
  exact ⟨rfl, by rw [State.phase_ctx rfl, State.job_with_cur, hjob, ← hphase]⟩

theorem runAs_commitOf_ends (h : HasBegun s (.ctx c)) {r0 r1 r2 : Byte} (ho : s.draw.frame = .ok r0 r1 r2) :
    runAs c (commitOf k P) (.next s) = .next (s.commitEnds c) :=
  exec_commitOf_ends_ok h.inPhase ho

@[simp] theorem State.commitEnds_sr : (s.commitEnds c).sr = s.sr := by simp [State.commitEnds]

/-- The end of a commit with OK leaves the byte of the frame in flight in the register that the frame addresses (R51). -/
theorem State.read_chip_commitEnds {owner : Agent} {a x r0 r1 r2 : Byte} (hb : s.bus = .busy owner (writeFrame a x))
    (ho : s.draw.frame = .ok r0 r1 r2) : Memory.read (s.commitEnds c).chip a = some x := by
  rw [State.commitEnds, State.answered_chip, State.frameEnd_chip, hb, ho, read_chipAfter_writeFrame_ok, if_pos rfl]

/-- Settles O24: the frame in flight holds the byte sampled, and the setter's write changes neither it nor the chip. -/
theorem commitSendsTheByteItSampled : Obligations.CommitSendsTheByteItSampled := by
  intro k p v b c₁ c₂ s r0 r1 r2 hc hready hread hl hb ho i₁
  have hread' : SetterHasRead (s.commitBegins c₁ k (portOf p)) c₂ b :=
    SetterHasRead.congr hread (by rw [State.job_commitBegins, if_neg hc.symm])
  have hbegun : HasBegun ((s.commitBegins c₁ k (portOf p)).setterWrites c₂ k p v b) (.ctx c₁) :=
    hasBegun_commitBegins.setterWrites_other hc
  have hdraw : ((s.commitBegins c₁ k (portOf p)).setterWrites c₂ k p v b).draw.frame = .ok r0 r1 r2 := by simpa using ho
  refine ⟨_, by rw [runAs_commitOf_begins hready hl hb, runAs_setterOf_writes hread', runAs_commitOf_ends hbegun hdraw],
    ?chip, ?shadow⟩
  case chip => exact State.read_chip_commitEnds (by rw [State.setterWrites_bus, State.commitBegins_bus]) hdraw
  case shadow => rw [State.commitEnds_sr, State.get_setterWrites]

end Sys2Proof.Machine
end

section
/-! The two steps of READ_REG, FrameBegin and FrameEnd with its response (R156). -/

namespace Sys2Proof.Machine

variable {s : State} {c : Ctx}

/-- The second step of READ_REG: the byte read, or IOFailure (R156). -/
theorem exec_readReg_of_frameBegun (h : InPhase s c .frameBegun) (addr : Byte) :
    exec (.readReg addr) s = .next (s.endFrame fun r s => s.respond (byteResult r)) := by
  have harm : exec (.readReg addr) s = execReadReg addr s := rfl
  obtain ⟨-, hphase⟩ := h
  rw [harm, execReadReg, hphase]

/-- Settles O25: a FrameBegin, and the response after a read frame's end, which leaves the chip's registers alone. -/
theorem readRegRespondsTheByteRead : Obligations.ReadRegRespondsTheByteRead := by
  refine fun addr => ⟨rfl, fun c s => ⟨fun hd hl hb => ?begins, fun a r0 r1 r2 h hb ho => ?ok,
    fun a landed h hb ho => ?fail⟩⟩
  case begins =>
    rw [exec_readReg_of_decoding hd hl, State.beginFrame_idle hd.1 hb]
    rfl
  case ok =>
    have hcur : s.released.cur = .ctx c := h.1
    rw [exec_readReg_of_frameBegun h, State.endFrame_ok ho, State.frameEnd_of_readFrame hb, State.respond_ctx hcur,
      byteResult]
  case fail =>
    have hcur : s.released.cur = .ctx c := h.1
    rw [exec_readReg_of_frameBegun h, State.endFrame_fail ho, State.frameEnd_of_readFrame hb, State.raise_ctx hcur]
    rfl

end Sys2Proof.Machine
end

section
/-! A listener command and the lock of its set (R176), and a listener command that waits for the pass that dispatched to it
(R177). -/

namespace Sys2Proof.Machine

variable {s : State} {c : Ctx} {i : Instr} {j : Nat} {p : Pass} {u : SetId}

/-- While the lock of its set is HELD a listener command past its decode step does nothing (R176). -/
theorem exec_of_lockHeld (h : InPhase s c .waitLock) (hu : ListenerCommandOn u i) (hl : s.lock u = .held j) :
    exec i s = .next s := by
  obtain ⟨hcur, hphase⟩ := h
  obtain ⟨t, ht, heffect⟩ := exec_ctx_effect hcur i
  rw [ht, heffect.eq_of_held hphase hu hl]

/-- Settles O32: each of the four is a listener command on the set whose lock is HELD. -/
theorem listenerCommandWaitsForTheLock : Obligations.ListenerCommandWaitsForTheLock := by
  refine fun c lid j s h => ⟨fun hl => ⟨?addGlobal, ?removeGlobal⟩, fun p hl => ⟨?addPin, ?removePin⟩⟩
  case addGlobal => exact exec_of_lockHeld h (u := .global) ⟨lid, .inl rfl⟩ hl
  case removeGlobal => exact exec_of_lockHeld h (u := .global) ⟨lid, .inr rfl⟩ hl
  case addPin => exact exec_of_lockHeld h (u := .pin p) ⟨lid, .inl rfl⟩ hl
  case removePin => exact exec_of_lockHeld h (u := .pin p) ⟨lid, .inr rfl⟩ hl

/-- A pass inside its iteration over a set has no frame before it (R212). -/
theorem Pass.frame_of_iterates (h : p.iterates u) : p.frame = none := by
  obtain ⟨-, hset⟩ := h
  cases u with
  | global =>
    have hstage : p.stage = .dispatchGlobal := hset
    simp only [Pass.frame, hstage]
  | pin q =>
    have hstage : p.stage = .dispatchPin := hset.1
    simp only [Pass.frame, hstage]

theorem takeTurn_pass_of_no_frame (hp : Sparse.read s.passes j = some p) (hf : p.frame = none) :
    takeTurn (.pass j) s = .next (routerStep j p s) := by
  simp only [takeTurn, hp, hf]

/-- Where a DONE comes first, the step is that event's (R219). -/
theorem step_of_done {rest : List EnvEvent} (h : s.env = .done j :: rest) :
    step s = .next (onDone j { s with env := rest }) := by
  simp only [step, h]
  rfl

/-- No DONE is taken while the listener's own command is unfinished (R177). -/
theorem onDone_of_busy {job : Job} (h : s.job (.listener j) = some job) : onDone j s = s := by
  have hread : Sparse.read s.listeners j = some (some job) := Option.join_eq_some_iff.1 h
  simp only [onDone, hread]

/-- Settles O33: the listener's turn meets the HELD lock, the pass's turn meets a pass that awaits its DONE, and the DONE
meets a BUSY listener. -/
theorem selfMutationIsStuck : Obligations.SelfMutationIsStuck := by
  intro s j p lid u code i e rest hp hawait hheld hjob hi hcmd hiter henv hcase
  have hu : ListenerCommandOn u i := by
    obtain ⟨x, ⟨rfl, hi⟩ | ⟨q, rfl, hi⟩⟩ := hcmd
    · exact ⟨x, hi⟩
    · exact ⟨x, hi⟩
  rcases hcase with ⟨d, rfl⟩ | ⟨d, rfl⟩ | rfl
  case inl =>
    refine ⟨s.given (.ctx (.listener j)) d rest, ?_, rfl⟩
    rw [step_of_turnComes henv, takeTurn_ctx_of_busy ((State.job_given ..).trans hjob), runJob_of_decodes hi]
    exact exec_of_lockHeld ⟨rfl, State.phase_given hjob d rest⟩ hu ((State.lock_given ..).trans hheld)
  case inr.inl =>
    refine ⟨s.given (.pass j) d rest, ?_, rfl⟩
    have hp' : Sparse.read (s.given (.pass j) d rest).passes j = some p := hp
    rw [step_of_turnComes henv, takeTurn_pass_of_no_frame hp' (Pass.frame_of_iterates hiter)]
    exact congrArg _ (routerStep_effect.eq_of_waits (.inr ⟨lid, hawait⟩))
  case inr.inr =>
    refine ⟨{ s with env := rest }, ?_, rfl⟩
    have hjob' := (State.job_congr (t := { s with env := rest }) rfl rfl (.listener j)).trans hjob
    rw [step_of_done henv, onDone_of_busy hjob']

end Sys2Proof.Machine
end

section
/-! The listener commands step by step (R171 to R174): the decode step, and the one step on a set whose lock is FREE, said
once for every set and then read for G and for PL[n]. -/

namespace Sys2Proof.Machine

variable {s : State} {c : Ctx} {i : Instr} {u : SetId} {lid : Lid}

-- ---- the decode step ----

theorem globalListener_of_decoding (hd : Decoding s c) (hl : s.lc = .ready) (act : State → State) :
    globalListener i act s = s.waiting c i .waitLock := by
  obtain ⟨hcur, hphase⟩ := hd
  simp only [globalListener, hphase, State.enter_ready hl, State.hold_ctx hcur]

theorem pinListener_of_decoding (hd : Decoding s c) (hl : s.lc = .ready) (n : Nat) (act : Pin → State → State) :
    pinListener i n act s = if n ≤ 15 then s.waiting c i .waitLock else s.answered c 0x01 0 := by
  obtain ⟨hcur, hphase⟩ := hd
  simp only [pinListener, hphase, State.enter_ready hl]
  by_cases hn : n ≤ 15
  · rw [State.withPin_valid (Nat.lt_succ_of_le hn), State.hold_ctx hcur, if_pos hn]
  · rw [State.withPin_invalid (by omega), State.raise_ctx hcur, if_neg hn]
    rfl

-- ---- the step on a set whose lock is FREE ----

/-- The command that adds `lid` to set `u` (R171, R173). -/
def addOn (u : SetId) (lid : Lid) : Instr :=
  match u with
  | .global => .addGlobalListener lid
  | .pin p => .addPinListener p.val lid

/-- The command that removes `lid` from set `u` (R172, R174). -/
def removeOn (u : SetId) (lid : Lid) : Instr :=
  match u with
  | .global => .removeGlobalListener lid
  | .pin p => .removePinListener p.val lid

theorem globalListener_of_free (h : InPhase s c .waitLock) (hf : s.lock .global = .free) (act : State → State) :
    globalListener i act s = act s := by
  obtain ⟨-, hphase⟩ := h
  simp only [globalListener, hphase, State.whenFree_free hf]

theorem pinListener_of_free (h : InPhase s c .waitLock) {p : Pin} (hf : s.lock (.pin p) = .free)
    (act : Pin → State → State) : pinListener i p.val act s = act p s := by
  obtain ⟨-, hphase⟩ := h
  simp only [pinListener, hphase, State.withPin_val, State.whenFree_free hf]

theorem exec_addOn_of_free (h : InPhase s c .waitLock) (hf : s.lock u = .free) :
    exec (addOn u lid) s = .next (s.addMember u lid) := by
  cases u with
  | global => exact congrArg _ (globalListener_of_free h hf _)
  | pin p => exact congrArg _ (pinListener_of_free h hf _)

theorem exec_removeOn_of_free (h : InPhase s c .waitLock) (hf : s.lock u = .free) :
    exec (removeOn u lid) s = .next (s.removeMember u lid) := by
  cases u with
  | global => exact congrArg _ (globalListener_of_free h hf _)
  | pin p => exact congrArg _ (pinListener_of_free h hf _)

/-- An add of the null identifier or of a member answers InvalidArgument (R171, R173). -/
theorem exec_addOn_refused (h : InPhase s c .waitLock) (hf : s.lock u = .free) (hr : lid = 0 ∨ lid ∈ s.members u) :
    exec (addOn u lid) s = .next (s.answered c 0x02 0) := by
  rw [exec_addOn_of_free h hf, State.addMember_refused hr, State.raise_ctx h.1]
  rfl

/-- A remove of the null identifier or of an absent one answers InvalidArgument (R172, R174). -/
theorem exec_removeOn_refused (h : InPhase s c .waitLock) (hf : s.lock u = .free) (hr : lid = 0 ∨ lid ∉ s.members u) :
    exec (removeOn u lid) s = .next (s.answered c 0x02 0) := by
  rw [exec_removeOn_of_free h hf, State.removeMember_refused hr, State.raise_ctx h.1]
  rfl

theorem exec_addOn_joins (h : InPhase s c .waitLock) (hf : s.lock u = .free) (h0 : lid ≠ 0) (hm : lid ∉ s.members u) :
    exec (addOn u lid) s = .next ((s.setMembers u (lidAdd (s.members u) lid)).answered c 0x00 0) := by
  rw [exec_addOn_of_free h hf, State.addMember_ok h0 hm, State.respond_ctx (by simpa using h.1)]

theorem exec_removeOn_leaves (h : InPhase s c .waitLock) (hf : s.lock u = .free) (h0 : lid ≠ 0)
    (hm : lid ∈ s.members u) :
    exec (removeOn u lid) s = .next ((s.setMembers u (lidRemove (s.members u) lid)).answered c 0x00 0) := by
  rw [exec_removeOn_of_free h hf, State.removeMember_ok h0 hm, State.respond_ctx (by simpa using h.1)]

-- ---- what the step leaves ----

/-- A response after a change of G changes nothing else (R171, R172). -/
theorem State.setMembers_global_answered (s : State) (c : Ctx) (l : List Lid) :
    (s.setMembers .global l).answered c 0x00 0 = { s.answered c 0x00 0 with g := l } := s.answered_with_g c _ _ l

/-- A response after a change of PL[p] changes nothing else (R173, R174). -/
theorem State.setMembers_pin_answered (s : State) (c : Ctx) (p : Pin) (l : List Lid) :
    (s.setMembers (.pin p) l).answered c 0x00 0 = { s.answered c 0x00 0 with pl := s.pl.set p l } :=
  s.answered_with_pl c _ _ (s.pl.set p l)

/-- The sets of the pins after a change of PL[p] (R175). -/
theorem State.pl_set_getElem (s : State) (p q : Pin) (l : List Lid) :
    (s.pl.set p l)[q] = if q = p then l else s.pl[q] := by
  have hread : (s.pl.set p l)[q] = if SetId.pin q = .pin p then l else s.pl[q] := s.members_setMembers (.pin p) (.pin q) l
  simpa only [SetId.pin.injEq] using hread

/-- An add to PL[p] puts `lid` into PL[p] and changes no other pin's set (R173, R175). -/
theorem State.mem_pl_set_lidAdd (s : State) (p q : Pin) (lid x : Lid) :
    x ∈ (s.pl.set p (lidAdd s.pl[p] lid))[q] ↔ (q = p ∧ x = lid) ∨ x ∈ s.pl[q] := by
  rw [State.pl_set_getElem]
  split
  · next hq => rw [hq, mem_lidAdd, eq_self, true_and]
  · next hq => simp only [hq, false_and, false_or]

/-- A remove from PL[p] takes `lid` out of PL[p] and changes no other pin's set (R174, R175). -/
theorem State.mem_pl_set_lidRemove (s : State) (p q : Pin) (lid x : Lid) :
    x ∈ (s.pl.set p (lidRemove s.pl[p] lid))[q] ↔ x ∈ s.pl[q] ∧ ¬ (q = p ∧ x = lid) := by
  rw [State.pl_set_getElem]
  split
  · next hq => rw [hq, mem_lidRemove, eq_self, true_and]
  · next hq => simp only [hq, false_and, not_false_eq_true, and_true]

/-- Settles O30: the steps of an add and of a remove, read for G. -/
theorem globalListenersJoinAndLeave : Obligations.GlobalListenersJoinAndLeave := by
  refine fun lid => ⟨rfl, rfl, fun c s => ⟨fun hd hl => ?decode, fun j h hl => ?held, fun h hf => ?free⟩⟩
  case decode =>
    exact ⟨congrArg _ (globalListener_of_decoding hd hl _), congrArg _ (globalListener_of_decoding hd hl _)⟩
  case held => exact (listenerCommandWaitsForTheLock c lid j s h).1 hl
  case free =>
    refine ⟨exec_addOn_refused (u := .global) h hf, fun h0 hm => ?joins, exec_removeOn_refused (u := .global) h hf,
      fun h0 hm => ?leaves⟩
    case joins =>
      exact ⟨_, (exec_addOn_joins (u := .global) h hf h0 hm).trans (congrArg _ (s.setMembers_global_answered c _)), rfl,
        mem_lidAdd s.g lid⟩
    case leaves =>
      exact ⟨_, (exec_removeOn_leaves (u := .global) h hf h0 hm).trans (congrArg _ (s.setMembers_global_answered c _)),
        rfl, mem_lidRemove s.g lid⟩

/-- Settles O31: the steps of an add and of a remove, read for PL[n]; the pin check stands in the decode step. -/
theorem pinListenersJoinAndLeave : Obligations.PinListenersJoinAndLeave := by
  refine fun n lid => ⟨rfl, rfl, fun c s => ⟨fun hd hl => ?decode, fun p j hn h hl => ?held, fun p hn h hf => ?free⟩⟩
  case decode =>
    exact ⟨congrArg _ (pinListener_of_decoding hd hl n _), congrArg _ (pinListener_of_decoding hd hl n _)⟩
  case held =>
    subst hn
    exact (listenerCommandWaitsForTheLock c lid j s h).2 p hl
  case free =>
    subst hn
    refine ⟨exec_addOn_refused (u := .pin p) h hf, fun h0 hm => ?joins, exec_removeOn_refused (u := .pin p) h hf,
      fun h0 hm => ?leaves⟩
    case joins =>
      exact ⟨_, (exec_addOn_joins (u := .pin p) h hf h0 hm).trans (congrArg _ (s.setMembers_pin_answered c p _)), rfl,
        fun q => s.mem_pl_set_lidAdd p q lid⟩
    case leaves =>
      exact ⟨_, (exec_removeOn_leaves (u := .pin p) h hf h0 hm).trans (congrArg _ (s.setMembers_pin_answered c p _)), rfl,
        fun q => s.mem_pl_set_lidRemove p q lid⟩

end Sys2Proof.Machine
end

section
/-! The steps of a construction (R190 to R197): what each of them is, said once for the five commands, and the state after
it. -/

namespace Sys2Proof.Machine

variable {s : State} {c : Ctx} {top : Topology}

-- ---- which operation each step is ----

/-- Every construction but CONSTRUCT_TIED is the construction template for its topology (R192, R194 to R196). -/
theorem exec_constructOf_plain (ht : top ≠ .tied) :
    exec (constructOf top) s = .next (constructPlain (constructOf top) top s) := by
  cases top with
  | tied => exact absurd rfl ht
  | _ => rfl

theorem exec_constructOf_of_decoding (hd : Decoding s c) :
    exec (constructOf top) s = .next (s.enterConstruction fun s =>
      ({ s with lc := .constructing } : State).hold (constructOf top) .bringUp) := by
  obtain ⟨-, hphase⟩ := hd
  by_cases ht : top = .tied
  · subst ht
    simp only [constructOf, exec, execConstructTied, hphase]
  · rw [exec_constructOf_plain ht, constructPlain, hphase]

/-- The bring-up step; TIED's frame comes after it, and the other constructions' final step (R190 step 2, R193). -/
theorem exec_constructOf_of_bringUp (h : InPhase s c .bringUp) :
    exec (constructOf top) s =
      .next (s.csBringUp (constructOf top) (if top = .tied then .frameReady else .final)) := by
  obtain ⟨-, hphase⟩ := h
  by_cases ht : top = .tied
  · subst ht
    simp only [constructOf, exec, execConstructTied, hphase, if_true]
  · rw [exec_constructOf_plain ht, constructPlain, hphase, if_neg ht]

theorem exec_constructOf_of_final (h : InPhase s c .final) : exec (constructOf top) s = .next (s.constructDone top) := by
  obtain ⟨-, hphase⟩ := h
  by_cases ht : top = .tied
  · subst ht
    simp only [constructOf, exec, execConstructTied, hphase]
  · rw [exec_constructOf_plain ht, constructPlain, hphase]

-- ---- what each operation leaves ----

theorem State.csBringUp_ctx (hc : s.cur = .ctx c) (i : Instr) (ph : Phase) :
    s.csBringUp i ph = if s.draw.bringUpOk then ({ s with csN := .high }.emit (.bringUp c)).hold i ph
      else (s.emit (.bringUp c)).constructFails := by
  rw [State.csBringUp]
  split
  · next c' h => cases hc.symm.trans h; rfl
  · next j h => cases hc.symm.trans h

theorem State.csBringUp_ok (hc : s.cur = .ctx c) (ho : s.draw.bringUpOk = true) (i : Instr) (ph : Phase) :
    s.csBringUp i ph = ({ s with csN := .high, trace := s.trace ++ [.bringUp c] } : State).waiting c i ph := by
  rw [State.csBringUp_ctx hc, if_pos ho]
  exact State.hold_ctx (by exact hc) i ph

theorem State.constructFails_ctx (hc : s.cur = .ctx c) :
    s.constructFails = ({ s with lc := .unconstructed } : State).answered c 0x03 0 :=
  State.raise_ctx (by exact hc) .ioFailure

theorem State.csBringUp_fail (hc : s.cur = .ctx c) (ho : s.draw.bringUpOk = false) (i : Instr) (ph : Phase) :
    s.csBringUp i ph =
      ({ s with lc := .unconstructed, trace := s.trace ++ [.bringUp c] } : State).answered c 0x03 0 := by
  rw [State.csBringUp_ctx hc, if_neg (by simp [ho])]
  exact State.constructFails_ctx (by exact hc)

theorem State.constructDone_ctx (hc : s.cur = .ctx c) :
    s.constructDone top = ({ s with lc := .ready, topo := top } : State).answered c 0x00 0 :=
  State.respond_ctx (by exact hc) 0

-- ---- the state after each step ----

theorem exec_constructOf_begins (hd : Decoding s c) (hl : s.lc = .unconstructed) :
    exec (constructOf top) s =
      .next (({ s with lc := .constructing } : State).waiting c (constructOf top) .bringUp) := by
  rw [exec_constructOf_of_decoding hd, State.enterConstruction_unconstructed hl, State.hold_ctx (by exact hd.1)]

theorem exec_constructOf_again (hd : Decoding s c) (hl : s.lc = .constructing ∨ s.lc = .ready) :
    exec (constructOf top) s = .next (s.answered c 0x07 0) := by
  rw [exec_constructOf_of_decoding hd, State.enterConstruction_again hl, State.raise_ctx hd.1]
  rfl

theorem exec_constructOf_bringsUp (h : InPhase s c .bringUp) (ho : s.draw.bringUpOk = true) :
    exec (constructOf top) s = .next (({ s with csN := .high, trace := s.trace ++ [.bringUp c] } : State).waiting c
      (constructOf top) (if top = .tied then .frameReady else .final)) := by
  rw [exec_constructOf_of_bringUp h, State.csBringUp_ok h.1 ho]

theorem exec_constructOf_fails (h : InPhase s c .bringUp) (ho : s.draw.bringUpOk = false) :
    exec (constructOf top) s = .next
      (({ s with lc := .unconstructed, trace := s.trace ++ [.bringUp c] } : State).answered c 0x03 0) := by
  rw [exec_constructOf_of_bringUp h, State.csBringUp_fail h.1 ho]

theorem exec_constructOf_finishes (h : InPhase s c .final) :
    exec (constructOf top) s = .next (({ s with lc := .ready, topo := top } : State).answered c 0x00 0) := by
  rw [exec_constructOf_of_final h, State.constructDone_ctx h.1]

/-- Settles O14: the decode check raises AlreadyConstructed before the construction's own rule. -/
theorem secondConstructionIsRefused : Obligations.SecondConstructionIsRefused :=
  fun _ _ _ hd hl => exec_constructOf_again hd hl

/-- Settles O34: the decode step, the two outcomes of the bring-up, and the final step. -/
theorem constructionsRunTheirSteps : Obligations.ConstructionsRunTheirSteps :=
  fun _ _ _ => ⟨exec_constructOf_begins, exec_constructOf_bringsUp, exec_constructOf_fails, exec_constructOf_finishes⟩

end Sys2Proof.Machine
end

section
/-! The IOCON frame of CONSTRUCT_TIED, its FrameBegin and its FrameEnd (R190, R193). -/

namespace Sys2Proof.Machine

variable {s : State} {c : Ctx}

/-- The one frame of CONSTRUCT_TIED: 40 0A 40 (R42, R43, R44). -/
theorem writeFrame_iocon : writeFrame addrIocon ioconTiedValue = 0x400A40 := by decide

theorem exec_constructTied_begins (h : InPhase s c .frameReady) (hb : s.bus = .idle) :
    exec .constructTied s = .next ((s.framed (.ctx c) 0x400A40).waiting c .constructTied .frameBegun) := by
  rw [exec_constructTied_of_frameReady h, State.beginFrame_idle h.1 hb, writeFrame_iocon]

theorem exec_constructTied_ends_ok (h : InPhase s c .frameBegun) {r0 r1 r2 : Byte} (ho : s.draw.frame = .ok r0 r1 r2) :
    exec .constructTied s = .next (s.frameEnd.waiting c .constructTied .final) := by
  obtain ⟨hcur, hphase⟩ := h
  have hcur' : s.frameEnd.cur = .ctx c := hcur
  simp only [exec, execConstructTied, hphase, ho, State.hold_ctx hcur']

theorem exec_constructTied_ends_fail (h : InPhase s c .frameBegun) {landed : Bool} (ho : s.draw.frame = .fail landed) :
    exec .constructTied s = .next (({ s.frameEnd with lc := .unconstructed } : State).answered c 0x03 0) := by
  obtain ⟨hcur, hphase⟩ := h
  have hcur' : s.frameEnd.cur = .ctx c := hcur
  simp only [exec, execConstructTied, hphase, ho, State.constructFails_ctx hcur']

/-- A command that goes on after a frame's end goes on after the bus's release, but for the chip (R47, R51). -/
theorem State.frameEnd_waiting (s : State) (c : Ctx) (i : Instr) (ph : Phase) :
    s.frameEnd.waiting c i ph = { s.released.waiting c i ph with chip := chipAfter s.bus s.draw.frame s.chip } := by
  cases c <;> rfl

/-- Settles O35: a FrameBegin, and the two outcomes of a write frame's end, whose effect on the chip is
`read_chipAfter_writeFrame_ok` or `read_chipAfter_writeFrame_fail`. -/
theorem tiedConstructionSendsTheIoconFrame : Obligations.TiedConstructionSendsTheIoconFrame := by
  refine fun c s => ⟨exec_constructTied_begins, fun r0 r1 r2 h hb ho => ⟨_, exec_constructTied_ends_ok h ho, ?ok⟩,
    fun landed h hb ho => ⟨_, exec_constructTied_ends_fail h ho, ?fail⟩⟩
  case ok =>
    rw [State.frameEnd_waiting, ho, hb, ← writeFrame_iocon]
    exact ⟨rfl, read_chipAfter_writeFrame_ok (.ctx c) addrIocon ioconTiedValue r0 r1 r2 s.chip⟩
  case fail =>
    rw [State.answered_with_lc, State.frameEnd_answered, ho, hb, ← writeFrame_iocon]
    exact ⟨rfl, read_chipAfter_writeFrame_fail (.ctx c) addrIocon ioconTiedValue landed s.chip⟩

end Sys2Proof.Machine
end

section
/-! A construction run step by step with nothing in between (R190, R198): the state after each of its steps, the whole run,
and what the getters answer after it. -/

namespace Sys2Proof.Machine

variable {s : State} {c c' : Ctx} {top : Topology} {i : Instr} {ph : Phase}

/-- A context that has the step already takes its next one from the same state (R9). -/
theorem runAs_of_cur (h : s.cur = .ctx c) (i : Instr) : runAs c i (.next s) = exec i s := by
  have hself : ({ s with cur := .ctx c } : State) = s := by rw [← h]
  rw [runAs, hself]

theorem State.inPhase_waiting (h : s.cur = .ctx c) : InPhase (s.waiting c i ph) c ph := by
  have hcur : (s.waiting c i ph).cur = .ctx c := by rw [State.waiting_cur, h]
  exact ⟨hcur, by rw [State.phase_ctx hcur, State.job_waiting, if_pos rfl]⟩

-- ---- the steps ----

/-- Context `c` has taken the decode step of its construction (R190 step 1). -/
def State.constructBegun (s : State) (c : Ctx) (top : Topology) : State :=
  ({ s with cur := .ctx c, lc := .constructing } : State).waiting c (constructOf top) .bringUp

/-- Context `c` has then had an OK bring-up (R190 step 2, R191). -/
def State.constructBroughtUp (s : State) (c : Ctx) (top : Topology) : State :=
  ({ s.constructBegun c top with csN := .high, trace := s.trace ++ [.bringUp c] } : State).waiting c (constructOf top)
    (if top = .tied then .frameReady else .final)

/-- Context `c` has then sent the IOCON frame of CONSTRUCT_TIED (R193). -/
def State.ioconSent (s : State) (c : Ctx) : State :=
  ((s.framed (.ctx c) 0x400A40).waiting c .constructTied .frameBegun).frameEnd.waiting c .constructTied .final

/-- Context `c` has its construction's final step before it: TIED has sent its frame, the others send none (R190). -/
def State.constructSent (s : State) (c : Ctx) (top : Topology) : State :=
  if top = .tied then (s.constructBroughtUp c top).ioconSent c else s.constructBroughtUp c top

/-- Context `c` has run its whole construction with nothing in between (R190). -/
def State.constructRuns (s : State) (c : Ctx) (top : Topology) : State :=
  ({ s.constructSent c top with lc := .ready, topo := top } : State).answered c 0x00 0

theorem runSteps_constructOf_broughtUp (h : ReadyFor s c) (hl : s.lc = .unconstructed) (ho : s.draw.bringUpOk = true) :
    runSteps c (constructOf top) 2 (.next s) = .next (s.constructBroughtUp c top) := by
  have hbegun : runAs c (constructOf top) (.next s) = .next (s.constructBegun c top) :=
    exec_constructOf_begins h.decoding hl
  have hphase : InPhase (s.constructBegun c top) c .bringUp := State.inPhase_waiting rfl
  have ho' : (s.constructBegun c top).draw.bringUpOk = true := by simpa [State.constructBegun] using ho
  have htrace : (s.constructBegun c top).trace = s.trace := by simp [State.constructBegun]
  rw [runSteps, runSteps, runSteps, hbegun, runAs_of_cur hphase.1, exec_constructOf_bringsUp hphase ho', htrace,
    State.constructBroughtUp]

theorem State.inPhase_constructBroughtUp :
    InPhase (s.constructBroughtUp c top) c (if top = .tied then .frameReady else .final) :=
  State.inPhase_waiting (by simp [State.constructBegun])

theorem runSteps_constructTied_iocon (h : InPhase s c .frameReady) (hb : s.bus = .idle) {r0 r1 r2 : Byte}
    (ho : s.draw.frame = .ok r0 r1 r2) : runSteps c .constructTied 2 (.next s) = .next (s.ioconSent c) := by
  have hphase := State.inPhase_waiting (s := s.framed (.ctx c) 0x400A40) (i := .constructTied) (ph := .frameBegun) h.1
  rw [runSteps, runSteps, runSteps, runAs_of_cur h.1, exec_constructTied_begins h hb, runAs_of_cur hphase.1,
    exec_constructTied_ends_ok hphase (by simpa using ho)]
  rfl

theorem State.inPhase_ioconSent (h : s.cur = .ctx c) : InPhase (s.ioconSent c) c .final :=
  State.inPhase_waiting (by simpa using h)

theorem runAs_constructOf_finishes (h : InPhase s c .final) : runAs c (constructOf top) (.next s) =
    .next (({ s with lc := .ready, topo := top } : State).answered c 0x00 0) := by
  rw [runAs_of_cur h.1, exec_constructOf_finishes h]

/-- All but the final step of a construction, with each draw OK: two steps, and two more for TIED's frame (R190, R193). -/
theorem runSteps_constructOf_sent (h : ReadyFor s c) (hl : s.lc = .unconstructed) (ho : s.draw.bringUpOk = true)
    (hf : top = .tied → s.bus = .idle ∧ ∃ r0 r1 r2, s.draw.frame = .ok r0 r1 r2) :
    runSteps c (constructOf top) (if top = .tied then 4 else 2) (.next s) = .next (s.constructSent c top) ∧
      InPhase (s.constructSent c top) c .final := by
  have hup := runSteps_constructOf_broughtUp (top := top) h hl ho
  have hphase := State.inPhase_constructBroughtUp (s := s) (c := c) (top := top)
  by_cases ht : top = .tied
  · subst ht
    obtain ⟨hb, r0, r1, r2, hok⟩ := hf rfl
    have hb' : (s.constructBroughtUp c .tied).bus = .idle := by
      simpa [State.constructBroughtUp, State.constructBegun] using hb
    have hok' : (s.constructBroughtUp c .tied).draw.frame = .ok r0 r1 r2 := by
      simpa [State.constructBroughtUp, State.constructBegun] using hok
    refine ⟨?_, State.inPhase_ioconSent hphase.1⟩
    calc runSteps c (constructOf .tied) 4 (.next s)
      _ = runSteps c .constructTied 2 (runSteps c (constructOf .tied) 2 (.next s)) := rfl
      _ = .next (s.constructSent c .tied) := by rw [hup, runSteps_constructTied_iocon hphase hb' hok']; rfl
  · rw [if_neg ht] at hphase
    rw [if_neg ht, State.constructSent, if_neg ht]
    exact ⟨hup, hphase⟩

/-- A construction whose steps nothing interleaves with, with each draw OK, comes to its end (R190). -/
theorem runSteps_constructOf (h : ReadyFor s c) (hl : s.lc = .unconstructed) (ho : s.draw.bringUpOk = true)
    (hf : top = .tied → s.bus = .idle ∧ ∃ r0 r1 r2, s.draw.frame = .ok r0 r1 r2) :
    runSteps c (constructOf top) (if top = .tied then 5 else 3) (.next s) = .next (s.constructRuns c top) := by
  obtain ⟨hsent, hphase⟩ := runSteps_constructOf_sent h hl ho hf
  calc runSteps c (constructOf top) (if top = .tied then 5 else 3) (.next s)
    _ = runAs c (constructOf top) (runSteps c (constructOf top) (if top = .tied then 4 else 2) (.next s)) := by
      split <;> rfl
    _ = runAs c (constructOf top) (.next (s.constructSent c top)) := by rw [hsent]
    _ = .next (s.constructRuns c top) := runAs_constructOf_finishes hphase

-- ---- the state after the run ----

theorem State.job_constructBroughtUp_other (hc : c' ≠ c) : (s.constructBroughtUp c top).job c' = s.job c' :=
  calc (s.constructBroughtUp c top).job c'
    _ = (s.constructBegun c top).job c' := (State.job_waiting ..).trans ((if_neg hc).trans (State.job_congr rfl rfl c'))
    _ = s.job c' := (State.job_waiting ..).trans ((if_neg hc).trans (State.job_congr rfl rfl c'))

theorem State.job_ioconSent_other (hc : c' ≠ c) : (s.ioconSent c).job c' = s.job c' := by
  rw [State.ioconSent, State.job_waiting, if_neg hc, State.job_frameEnd, State.job_waiting, if_neg hc, State.job_framed]

theorem State.job_constructRuns_self : (s.constructRuns c top).job c = none := by
  rw [State.constructRuns, State.job_answered, if_pos rfl]

theorem State.job_constructSent_other (hc : c' ≠ c) : (s.constructSent c top).job c' = s.job c' := by
  rw [State.constructSent]
  split
  · rw [State.job_ioconSent_other hc, State.job_constructBroughtUp_other hc]
  · exact State.job_constructBroughtUp_other hc

/-- A construction leaves the other contexts as they were (R36). -/
theorem State.job_constructRuns_other (hc : c' ≠ c) : (s.constructRuns c top).job c' = s.job c' := by
  rw [State.constructRuns, State.job_answered, if_neg hc]
  exact (State.job_congr rfl rfl c').trans (State.job_constructSent_other hc)

@[simp] theorem State.constructRuns_cur : (s.constructRuns c top).cur = .ctx c := by
  by_cases ht : top = .tied <;>
    simp [State.constructRuns, State.constructSent, State.ioconSent, State.constructBroughtUp, State.constructBegun, ht]

@[simp] theorem State.constructRuns_sr : (s.constructRuns c top).sr = s.sr := by
  by_cases ht : top = .tied <;>
    simp [State.constructRuns, State.constructSent, State.ioconSent, State.constructBroughtUp, State.constructBegun, ht]

@[simp] theorem State.constructRuns_lc : (s.constructRuns c top).lc = .ready := by simp [State.constructRuns]

/-- After its construction the context is IDLE, and takes a decode step next. -/
theorem State.decoding_constructRuns : Decoding (s.constructRuns c top) c :=
  ⟨State.constructRuns_cur, by rw [State.phase_ctx State.constructRuns_cur, State.job_constructRuns_self]⟩

-- ---- what the getters answer while SR holds its reset values ----

theorem Shadow.get_reset (k : Concern) (P : Port) : Shadow.reset.get k P = if k = .iodir then BitVec.allOnes 8 else 0 := by
  cases k <;> cases P <;> rfl

/-- The shadow bits after reset: 1 for the direction of every pin, 0 for every other concern (R21). -/
theorem Shadow.getLsbD_reset (k : Concern) (P : Port) {j : Nat} (hj : j < 8) :
    (Shadow.reset.get k P).getLsbD j = decide (k = .iodir) := by
  by_cases hk : k = .iodir
  · rw [Shadow.get_reset, if_pos hk, BitVec.getLsbD_allOnes, decide_eq_true hj, decide_eq_true hk]
  · rw [Shadow.get_reset, if_neg hk, decide_eq_false hk]
    exact BitVec.getLsbD_zero

theorem exec_getterOf_of_defaults {k : Concern} (hk : k ≠ .olat) (hd : Decoding s c) (hl : s.lc = .ready)
    (hsr : s.sr = Shadow.reset) {n : Nat} (hn : n ≤ 15) :
    exec (getterOf k n) s = .next (s.answered c 0x00 (if k = .iodir then 1 else 0)) := by
  have hgetter := (configGettersRespondTheShadowBit k n hk).2 c s hd hl
  rw [hgetter, if_pos hn, hsr, Shadow.getLsbD_reset k (portFor n) (Nat.mod_lt n (by omega))]
  simp only [decide_eq_true_eq]

/-- Settles O36: the state after the run, field by field, and the getters in it, whose SR is as it was. -/
theorem constructionFromResetLeavesTheDefaults : Obligations.ConstructionFromResetLeavesTheDefaults := by
  intro top c s h hl hsr ho hf
  refine ⟨_, runSteps_constructOf h hl ho hf, State.constructRuns_lc, ?_, ?_, State.job_constructRuns_self, ?_,
    State.constructRuns_sr, ?_, ?_, ?bus, ?_, ?_, ?_, ?_, fun c' hc => State.job_constructRuns_other hc,
    fun n hn => ?getters⟩
  case getters =>
    have hanswer : ∀ {k : Concern}, k ≠ .olat → exec (getterOf k n) (s.constructRuns c top) = _ := fun hk =>
      exec_getterOf_of_defaults hk State.decoding_constructRuns State.constructRuns_lc
        (State.constructRuns_sr.trans hsr) hn
    exact ⟨hanswer (k := .iodir) (by simp), hanswer (k := .gppu) (by simp), hanswer (k := .ipol) (by simp),
      hanswer (k := .gpinten) (by simp)⟩
  case bus =>
    by_cases ht : top = .tied
    · simp [State.constructRuns, State.constructSent, State.ioconSent, ht, (hf ht).1]
    · simp [State.constructRuns, State.constructSent, State.constructBroughtUp, State.constructBegun, ht]
  all_goals
    by_cases ht : top = .tied <;>
      simp [State.constructRuns, State.constructSent, State.ioconSent, State.constructBroughtUp, State.constructBegun, ht]

end Sys2Proof.Machine
end

section
/-! The defaults of a block that is not constructed (R190's corner case, R246): while LC is UNCONSTRUCTED or CONSTRUCTING the
only command past its decode step is a construction, and a construction writes neither SR nor a set. -/

namespace Sys2Proof.Machine

variable {s t : State} {c : Ctx} {i : Instr} {ph : Phase} {j : Nat} {p : Pass}

theorem not_construction_listenerCommandOn {u : SetId} (h : ListenerCommandOn u i) : ¬ IsConstruction i := by
  rintro ⟨top, rfl⟩
  cases u <;> obtain ⟨lid, h | h⟩ := h <;> cases top <;> cases h

/-- Before LC is READY, a command past its decode step is a construction (R190, R246). -/
theorem LifecycleWf.isConstruction_of_unready (hw : LifecycleWf s) (hr : Running s c i ph)
    (hl : s.lc = .unconstructed ∨ s.lc = .constructing) (hd : ph ≠ .decode) : IsConstruction i :=
  (hw.isConstruction_iff hr hd).2 (hl.resolve_left (hw.ne_unconstructed (hr.pastDecode hd)))

/-- A step that leaves LC, SR and the sets alone. -/
theorem DefaultsWf.same (hw : DefaultsWf s) (hl : t.lc = s.lc) (hsr : t.sr = s.sr)
    (hm : ∀ u, t.members u = s.members u) : DefaultsWf t := by
  simpa only [DefaultsWf, hl, hsr, hm] using hw

theorem DefaultsWf.of_ready_or_fatal (hl : t.lc = .ready ∨ t.lc = .fatal) : DefaultsWf t := fun h => by
  rcases hl with hl | hl <;> simp [hl] at h

/-- A command that leaves LC at UNCONSTRUCTED or CONSTRUCTING found it so. -/
theorem CtxEffect.unready_before (h : CtxEffect c i s t) (hr : Running s c i ph) (hw : LifecycleWf s)
    (hl : t.lc = .unconstructed ∨ t.lc = .constructing) : s.lc = .unconstructed ∨ s.lc = .constructing := by
  rcases h.lc_cases with heq | ⟨hi, hun | hd⟩
  · rwa [← heq]
  · exact .inl hun
  · exact .inr ((hw.isConstruction_iff hr (hr.phase_ne hd)).1 hi)

/-- Before LC is READY no command writes SR: a setter is not past its decode step (R190, R246). -/
theorem CtxEffect.sr_eq_of_unready (h : CtxEffect c i s t) (hr : Running s c i ph) (hw : LifecycleWf s)
    (hl : s.lc = .unconstructed ∨ s.lc = .constructing) : t.sr = s.sr := by
  rcases h.sr_cases with heq | ⟨k, n, v, b, -, rfl, -, hp, -⟩
  · exact heq
  · obtain rfl := hr.phase_eq hp
    exact absurd (hw.isConstruction_of_unready hr hl (by simp)) (not_construction_setterOf k n v)

/-- Before LC is READY no command writes a set: an add or a remove is not past its decode step (R190, R246). -/
theorem CtxEffect.members_eq_of_unready (h : CtxEffect c i s t) (hr : Running s c i ph) (hw : LifecycleWf s)
    (hl : s.lc = .unconstructed ∨ s.lc = .constructing) (u : SetId) : t.members u = s.members u := by
  rcases h.members_cases u with heq | ⟨hp, -, hu, -⟩
  · exact heq
  · obtain rfl := hr.phase_eq hp
    exact absurd (hw.isConstruction_of_unready hr hl (by simp)) (not_construction_listenerCommandOn hu)

theorem CtxEffect.defaultsWf (h : CtxEffect c i s t) (hr : Running s c i ph) (hw : LifecycleWf s) (hd : DefaultsWf s) :
    DefaultsWf t := by
  intro hl
  have hs := h.unready_before hr hw hl
  obtain ⟨hsr, hsets⟩ := hd hs
  exact ⟨(h.sr_eq_of_unready hr hw hs).trans hsr, fun u => (h.members_eq_of_unready hr hw hs u).trans (hsets u)⟩

/-- A step of a pass leaves LC alone or makes it FATAL (R223). -/
theorem PassEffect.lc_cases (h : PassEffect j p s t) : t.lc = s.lc ∨ t.lc = .fatal := by
  cases h with
  | fails => exact .inr rfl
  | _ => exact .inl (by simp)

theorem PassEffect.defaultsWf (h : PassEffect j p s t) (hd : DefaultsWf s) : DefaultsWf t := by
  rcases h.lc_cases with hl | hl
  · exact hd.same hl h.sr_eq h.members_eq
  · exact .of_ready_or_fatal (.inr hl)

/-- A reset puts SR and the sets at their reset values (R270). -/
theorem defaultsWf_blockReset (landed : Bool) (s : State) : DefaultsWf (blockReset landed s) :=
  fun _ => ⟨rfl, fun u => by cases u <;> simp [State.members, blockReset, State.reset]⟩

/-- Settles O57: a command's step and a pass's step keep the defaults, a reset restores them, and no other event writes LC,
SR or a set. -/
theorem unconstructedBlockHoldsTheDefaults : Obligations.UnconstructedBlockHoldsTheDefaults := by
  intro s t hw hd hstep
  cases step_effect hstep with
  | run c d rest job i t he hj hi ht =>
    exact ht.defaultsWf (hw.running hj hi d rest) (hw.same rfl (State.job_congr rfl rfl) fun _ => rfl)
      (hd.same rfl rfl (s.members_given _ d rest))
  | pass j d rest p t he hp ht => exact ht.defaultsWf (hd.same rfl rfl (s.members_given _ d rest))
  | reset landed rest he => exact defaultsWf_blockReset landed _
  | _ =>
    exact hd.same (by simp [State.spawn]) (by simp [State.spawn])
      (State.members_congr (by simp [State.spawn]) (by simp [State.spawn]))

end Sys2Proof.Machine
end

section
/-! The two reads of a pass, each a FrameBegin and a FrameEnd, and the read that fails (R212, R213, R223). -/

namespace Sys2Proof.Machine

variable {s : State} {j : Nat} {p : Pass} {a : Byte}

-- ---- the two addresses (R41, R213) ----

theorem addrIntf_eq_ite (P : Port) : addrIntf P = if P = .A then 0x0E else 0x0F := by cases P <;> rfl

theorem addrIntcap_eq_ite (P : Port) : addrIntcap P = if P = .A then 0x10 else 0x11 := by cases P <;> rfl

theorem Pass.frame_of_readFlag (h : p.stage = .readFlag) : p.frame = some (.busRead (addrIntf p.port)) := by
  simp only [Pass.frame, h]

theorem Pass.frame_of_readCap (h : p.stage = .readCap) : p.frame = some (.busRead (addrIntcap p.port)) := by
  simp only [Pass.frame, h]

theorem Pass.afterFrame_of_readFlag (h : p.stage = .readFlag) (r : Byte) :
    p.afterFrame (some r) = { p with f := r, stage := .readCap, phase := .ready } := by
  simp only [Pass.afterFrame, h]

theorem Pass.afterFrame_of_readCap (h : p.stage = .readCap) (r : Byte) :
    p.afterFrame (some r) = { p with cap := r, stage := .scan, phase := .ready } := by
  simp only [Pass.afterFrame, h]

-- ---- the steps of a read ----

/-- A pass's read begins where the bus is IDLE (R47, R213). -/
theorem exec_passRead_begins (hc : s.cur = .pass j) (hp : Sparse.read s.passes j = some p)
    (hf : p.frame = some (.busRead a)) (hr : p.phase = .ready) (hb : s.bus = .idle) :
    exec (.busRead a) s = .next ((s.framed (.pass j) (readFrame a)).setPass j { p with phase := .frameBegun }) := by
  simp only [exec_busRead, frameStep, hc, hp, Pass.sendsFrame_of_frame hf, hr, if_true, State.frameBegin_idle hb]

/-- A pass's read ends on OK with the release of the bus, and the pass takes the third response byte (R49, R213). -/
theorem exec_passRead_ends (hc : s.cur = .pass j) (hp : Sparse.read s.passes j = some p)
    (hf : p.frame = some (.busRead a)) (hr : p.phase = .frameBegun) {owner : Agent} {a' : Byte}
    (hb : s.bus = .busy owner (readFrame a')) {r0 r1 r2 : Byte} (hd : s.draw.frame = .ok r0 r1 r2) :
    exec (.busRead a) s = .next (s.released.setPass j (p.afterFrame (some r2))) := by
  simp only [exec_busRead, frameStep, hc, hp, Pass.sendsFrame_of_frame hf, hr, hd, if_true,
    State.frameEnd_of_readFrame hb]

/-- A pass's read ends on FAIL with the release of the bus and the router's fatal step (R223). -/
theorem exec_passRead_fails (hc : s.cur = .pass j) (hp : Sparse.read s.passes j = some p)
    (hf : p.frame = some (.busRead a)) (hr : p.phase = .frameBegun) {owner : Agent} {a' : Byte}
    (hb : s.bus = .busy owner (readFrame a')) {landed : Bool} (hd : s.draw.frame = .fail landed) :
    exec (.busRead a) s = .next s.released.routerFatal := by
  simp only [exec_busRead, frameStep, hc, hp, Pass.sendsFrame_of_frame hf, hr, hd, if_true,
    State.frameEnd_of_readFrame hb]

/-- Settles O27: each of the two stages has its address and its byte; the steps of the two reads are the same. -/
theorem passReadsFlagThenCapture : Obligations.PassReadsFlagThenCapture := by
  intro j p s hc hp
  refine ⟨fun hs => ⟨?_, fun a hf => ⟨?_, ?_⟩⟩, fun hs => ⟨?_, fun a hf => ⟨?_, ?_⟩⟩⟩
  · rw [Pass.frame_of_readFlag hs, addrIntf_eq_ite]
  · exact exec_passRead_begins hc hp hf
  · intro r0 r1 r2 hr hb hd
    rw [exec_passRead_ends hc hp hf hr hb hd, Pass.afterFrame_of_readFlag hs]
  · rw [Pass.frame_of_readCap hs, addrIntcap_eq_ite]
  · exact exec_passRead_begins hc hp hf
  · intro r0 r1 r2 hr hb hd
    rw [exec_passRead_ends hc hp hf hr hb hd, Pass.afterFrame_of_readCap hs]

/-- Settles O28: the failing read is the release of the bus and the router's fatal step, which frees the locks that
`State.lock_routerFatal` says. -/
theorem routerReadFailureIsFatal : Obligations.RouterReadFailureIsFatal := by
  intro j p a a' landed s hc hp hf hr hb hd
  refine ⟨s.released.routerFatal, exec_passRead_fails hc hp hf hr hb hd, rfl, rfl, fun u => ?_⟩
  have hlock : s.released.lock u = s.lock u := State.lock_congr rfl rfl u
  rw [State.lock_routerFatal, hlock]
  cases s.lock u <;> rfl

end Sys2Proof.Machine
end

section
/-! An edge on an interrupt input (R28, R211, R224). -/

namespace Sys2Proof.Machine

variable {s : State} {x : IrqLine} {P : Port} {queue : List Port}

/-- Where an edge comes first, the step is that event's (R210). -/
theorem step_of_edge {rest : List EnvEvent} (h : s.env = .edge x :: rest) :
    step s = .next (onEdge x { s with env := rest }) := by
  simp only [step, h]
  rfl

theorem onEdge_of_not_ready (h : s.lc ≠ .ready) : onEdge x s = s := by
  cases hl : s.lc with
  | ready => exact absurd hl h
  | _ => simp only [onEdge, hl]

theorem onEdge_of_unbound (h : boundPorts s.topo x = none) : onEdge x s = s := by
  cases hl : s.lc <;> simp only [onEdge, hl, h]

theorem State.edgeMayCome_iff : s.edgeMayCome = true ↔ s.passes = [] ∨ Config.edgeConcurrency = .concurrent := by
  simp [State.edgeMayCome]

theorem onEdge_of_bound (hl : s.lc = .ready) (hb : boundPorts s.topo x = some (P, queue))
    (hc : s.passes = [] ∨ Config.edgeConcurrency = .concurrent) : onEdge x s = s.spawn P queue := by
  simp only [onEdge, hl, hb, State.edgeMayCome_iff.2 hc, if_true]

/-- The inputs that a topology leaves unbound (R28). -/
theorem boundPorts_eq_none {t : Topology}
    (h : t = .none ∨ (x = .irqA ∧ t ≠ .aOnly ∧ t ≠ .both) ∨ (x = .irqB ∧ t ≠ .bOnly ∧ t ≠ .both) ∨
      (x = .irqT ∧ t ≠ .tied)) : boundPorts t x = none := by
  rcases h with rfl | ⟨rfl, hA, hAB⟩ | ⟨rfl, hB, hAB⟩ | ⟨rfl, hT⟩
  · cases x <;> rfl
  · cases t <;> simp_all [boundPorts]
  · cases t <;> simp_all [boundPorts]
  · cases t <;> simp_all [boundPorts]

/-- The ports that a topology binds an input to (R28, R211). -/
theorem boundPorts_eq_some {t : Topology}
    (h : (x = .irqA ∧ (t = .aOnly ∨ t = .both) ∧ P = .A ∧ queue = []) ∨
      (x = .irqB ∧ (t = .bOnly ∨ t = .both) ∧ P = .B ∧ queue = []) ∨
      (x = .irqT ∧ t = .tied ∧ P = .A ∧ queue = [.B])) : boundPorts t x = some (P, queue) := by
  rcases h with ⟨rfl, rfl | rfl, rfl, rfl⟩ | ⟨rfl, rfl | rfl, rfl, rfl⟩ | ⟨rfl, rfl, rfl, rfl⟩ <;> rfl

/-- Settles O37: an edge is lost for want of READY or of a binding, and else spawns the pass over the bound ports. -/
theorem edgesStartPassesOnBoundInputs : Obligations.EdgesStartPassesOnBoundInputs := by
  intro s x rest henv
  rw [step_of_edge henv]
  refine ⟨fun hl => ?_, fun hu => ?_, fun P queue hl hc hb => ?_⟩
  · exact congrArg _ (onEdge_of_not_ready hl)
  · exact congrArg _ (onEdge_of_unbound (boundPorts_eq_none hu))
  · exact congrArg _ (onEdge_of_bound hl (boundPorts_eq_some hb) hc)

end Sys2Proof.Machine
end

section
/-! The steps of a pass outside its frames: the turn that takes one, the scan, and the next port (R212, R214, R217, R218,
R225). -/

namespace Sys2Proof.Machine

variable {s : State} {j : Nat} {p : Pass}

theorem Pass.frame_eq_none (h : p.stage.sendsFrame = false) : p.frame = none := by
  cases hs : p.stage <;> simp_all [Pass.frame, Stage.sendsFrame]

/-- The turn of a pass at a stage that sends no frame is a step of the router (R9, R212). -/
theorem step_of_routerTurn {d : Draw} {rest : List EnvEvent} (hturn : TurnComes s (.pass j) d rest)
    (hp : Sparse.read s.passes j = some p) (hs : p.stage.sendsFrame = false) :
    step s = .next (routerStep j p (s.given (.pass j) d rest)) := by
  rw [step_of_turnComes hturn]
  exact takeTurn_pass_of_no_frame hp (Pass.frame_eq_none hs)

-- ---- the scan (R214, R217) ----

/-- The scan meets the bits in rising order, so what it finds is the lowest that is set (R214). -/
theorem lowestFlag_eq_some {f : Byte} {i : Fin 8} (hi : f.getLsbD i.val = true)
    (hmin : ∀ i' : Fin 8, i' < i → f.getLsbD i'.val = false) : lowestFlag f = some i := by
  have hplace : ∀ (k : Nat) (hk : k < 8), ([0, 1, 2, 3, 4, 5, 6, 7] : List (Fin 8))[k] = ⟨k, hk⟩ := by decide
  refine List.find?_eq_some_iff_getElem.2 ⟨hi, i.val, i.isLt, hplace i.val i.isLt, fun k hk => ?_⟩
  rw [hplace k (hk.trans i.isLt), hmin _ hk, Bool.not_false]

theorem val_pinOf (P : Port) (i : Fin 8) : (pinOf P i).val = if P = .A then i.val else 8 + i.val := by cases P <;> rfl

theorem Pass.scan_of_no_flag (h : p.f = 0) : p.scan = { p with stage := .next } := by
  have hnone : lowestFlag p.f = none := h ▸ rfl
  simp only [Pass.scan, hnone]

/-- The scan takes the lowest flag's pin and the bit of cap at the flag's own place (R214). -/
theorem Pass.scan_of_lowestFlag {i : Fin 8} (h : lowestFlag p.f = some i) :
    p.scan = { p with pin := pinOf p.port i, v := p.cap.getLsbD i.val, stage := .dispatchGlobal } := by
  simp only [Pass.scan, h, getBit_eq_getLsbD, bitIndex_pinOf]

theorem routerStep_of_scan (hs : p.stage = .scan) (hr : p.phase = .ready) : routerStep j p s = s.setPass j p.scan := by
  simp only [routerStep, hs, hr]

/-- Settles O38: the step is `Pass.scan`, which takes the first set bit that the search meets. -/
theorem scanTakesTheLowestFlag : Obligations.ScanTakesTheLowestFlag := by
  intro s d rest j p hturn hp hs hr
  have hstep : step s = .next ((s.given (.pass j) d rest).setPass j p.scan) := by
    rw [step_of_routerTurn hturn hp (by rw [hs]; rfl), routerStep_of_scan hs hr]
  refine ⟨fun hf => ?_, fun i hi hmin => ⟨pinOf p.port i, val_pinOf p.port i, ?_⟩⟩
  · rw [hstep, Pass.scan_of_no_flag hf]
  · rw [hstep, Pass.scan_of_lowestFlag (lowestFlag_eq_some hi hmin)]

-- ---- the next port (R212, R218, R225) ----

theorem routerStep_of_next (hs : p.stage = .next) (hr : p.phase = .ready) : routerStep j p s = s.nextPort j p := by
  simp only [routerStep, hs, hr]

/-- Settles O43: the queue says whether the pass goes on or leaves PASSES. -/
theorem passGoesToItsNextPortOrEnds : Obligations.PassGoesToItsNextPortOrEnds := by
  intro s d rest j p hturn hp hs hr
  rw [step_of_routerTurn hturn hp (by rw [hs]; rfl), routerStep_of_next hs hr]
  refine ⟨fun hq => ⟨(s.given (.pass j) d rest).endPass j, ?_, rfl, Sparse.read_clear s.passes j⟩, fun P queue hq => ?_⟩
  · simp only [State.nextPort, hq]
  · simp only [State.nextPort, hq]

end Sys2Proof.Machine
end

section
/-! The dispatch over a listener set, step by step (R215, R216, R219, R220): the lock, the DISPATCHes with their DONEs, and
the release of the lock; said once for the 17 sets, by `Pass.atSet`. -/

namespace Sys2Proof.Machine

variable {s : State} {j : Nat} {p : Pass} {u : SetId} {after : Stage}

theorem Pass.atSet.sendsFrame_eq_false (h : p.atSet u after) : p.stage.sendsFrame = false := by
  rcases h with ⟨-, hs, -⟩ | ⟨-, hs, -⟩ <;> rw [hs] <;> rfl

/-- A pass at a set takes a step of its dispatch (R215). -/
theorem routerStep_of_atSet (h : p.atSet u after) : routerStep j p s = s.dispatchStep j p u after := by
  rcases h with ⟨rfl, hs, rfl⟩ | ⟨rfl, hs, rfl⟩ <;> simp only [routerStep, hs]

/-- The turn of a pass at a set is a step of its dispatch. -/
theorem step_of_dispatchTurn {d : Draw} {rest : List EnvEvent} (hturn : TurnComes s (.pass j) d rest)
    (hp : Sparse.read s.passes j = some p) (h : p.atSet u after) :
    step s = .next ((s.given (.pass j) d rest).dispatchStep j p u after) := by
  rw [step_of_routerTurn hturn hp h.sendsFrame_eq_false, routerStep_of_atSet h]

theorem Pass.atSet_global (h : p.stage = .dispatchGlobal) : p.atSet .global .dispatchPin := .inl ⟨rfl, h, rfl⟩

theorem Pass.atSet_pin (h : p.stage = .dispatchPin) : p.atSet (.pin p.pin) .next := .inr ⟨rfl, h, rfl⟩

/-- A pass in a dispatch stage is at G or at PL[pin] (R216). -/
theorem Pass.exists_atSet (h : p.stage = .dispatchGlobal ∨ p.stage = .dispatchPin) : ∃ u after, p.atSet u after :=
  h.elim (fun hs => ⟨_, _, Pass.atSet_global hs⟩) fun hs => ⟨_, _, Pass.atSet_pin hs⟩

-- ---- the step of a dispatch, phase by phase ----

theorem State.dispatchStep_takes (hr : p.phase = .ready) (hl : s.lock u = .free) :
    s.dispatchStep j p u after = (s.setLock u (.held j)).setPass j { p with rem := s.members u, phase := .iterating } := by
  simp only [State.dispatchStep, hr, hl]

theorem State.dispatchStep_waits {k : Nat} (hr : p.phase = .ready) (hl : s.lock u = .held k) :
    s.dispatchStep j p u after = s := by
  simp only [State.dispatchStep, hr, hl]

theorem State.dispatchStep_dispatches (hi : p.phase = .iterating) (hr : p.rem ≠ []) :
    s.dispatchStep j p u after = { s.setPass j { p with phase := .awaitDone (pickListener s.draw.pick p.rem) } with
      listeners := Sparse.write s.listeners j none
      trace := s.trace ++ [.dispatch j (pickListener s.draw.pick p.rem) p.v p.pin] } := by
  simp only [State.dispatchStep, hi, List.isEmpty_iff, if_neg hr]
  rfl

theorem State.dispatchStep_releases (hi : p.phase = .iterating) (hr : p.rem = []) :
    s.dispatchStep j p u after = (s.setLock u .free).setPass j { p with stage := after, phase := .ready } := by
  simp only [State.dispatchStep, hi, List.isEmpty_iff, if_pos hr]

theorem State.dispatchStep_awaits {lid : Lid} (ha : p.phase = .awaitDone lid) : s.dispatchStep j p u after = s := by
  simp only [State.dispatchStep, ha]

/-- Settles O39: the lock says whether the first step of the dispatch waits or takes it. -/
theorem dispatchTakesTheLock : Obligations.DispatchTakesTheLock := by
  intro s d rest j p u hturn hp hr hset
  obtain ⟨after, hat⟩ : ∃ after, p.atSet u after := by
    rcases hset with ⟨rfl, hs⟩ | ⟨rfl, hs⟩
    · exact ⟨_, Pass.atSet_global hs⟩
    · exact ⟨_, Pass.atSet_pin hs⟩
  rw [step_of_dispatchTurn hturn hp hat]
  refine ⟨fun hl => ?_, fun k hl => ?_⟩
  · rw [State.dispatchStep_takes hr ((State.lock_given ..).trans hl), State.members_given]
  · rw [State.dispatchStep_waits hr ((State.lock_given ..).trans hl)]

-- ---- which listener comes next (R215, R220) ----

/-- Every listener that remains is the choice of some draw (R220). -/
theorem exists_pickListener_eq {rem : List Lid} {lid : Lid} (h : lid ∈ rem) : ∃ k, pickListener k rem = lid := by
  obtain ⟨k, hk, rfl⟩ := List.getElem_of_mem h
  refine ⟨k, ?_⟩
  rw [pickListener, Nat.mod_eq_of_lt hk, List.getD_eq_getElem _ _ hk]

/-- Settles O40: every draw picks a listener that remains, and each of them is picked by some draw. -/
theorem dispatchGoesToAnyRemainingListener : Obligations.DispatchGoesToAnyRemainingListener := by
  intro s rest j p hp hi hr hs dispatched
  obtain ⟨u, after, hat⟩ := Pass.exists_atSet hs
  have hstep : ∀ (s' : State) (d : Draw), TurnComes s' (.pass j) d rest → Sparse.read s'.passes j = some p →
      s'.given (.pass j) d rest = s.given (.pass j) d rest → step s' = .next (dispatched d (pickListener d.pick p.rem)) := by
    intro s' d hturn hp' hgiven
    rw [step_of_dispatchTurn hturn hp' hat, hgiven, State.dispatchStep_dispatches hi hr]
    rfl
  refine ⟨fun d hturn => ⟨_, pickListener_mem d.pick hr, hstep s d hturn hp rfl⟩, fun lid hlid => ?_⟩
  obtain ⟨k, rfl⟩ := exists_pickListener_eq hlid
  exact ⟨{ Draw.unused with pick := k }, hstep _ _ rfl hp rfl⟩

/-- Settles O42: with nothing remaining the step of the dispatch is the release, and a pass that awaits DONE takes none. -/
theorem dispatchReleasesTheLock : Obligations.DispatchReleasesTheLock := by
  intro s d rest j p hturn hp
  refine ⟨fun hi hr hs => ?_, fun hi hr hs => ?_, fun lid ha hs => ?_⟩
  · rw [step_of_dispatchTurn hturn hp (Pass.atSet_global hs), State.dispatchStep_releases hi hr]
  · rw [step_of_dispatchTurn hturn hp (Pass.atSet_pin hs), State.dispatchStep_releases hi hr]
  · obtain ⟨u, after, hat⟩ := Pass.exists_atSet hs
    rw [step_of_dispatchTurn hturn hp hat, State.dispatchStep_awaits ha]

-- ---- DONE (R215, R219) ----

theorem Pass.afterDone_of_awaits {lid : Lid} (h : p.phase = .awaitDone lid) :
    p.afterDone = { p with rem := lidRemove p.rem lid, phase := .iterating } := by
  simp only [Pass.afterDone, h]

/-- A DONE ends its listener's IDLE context and goes to its pass (R219, R226). -/
theorem onDone_of_idle (hl : Sparse.read s.listeners j = some none) (hp : Sparse.read s.passes j = some p) :
    onDone j s = { s with
      listeners := Sparse.clear s.listeners j, passes := Sparse.write s.passes j p.afterDone } := by
  simp only [onDone, hl, hp]
  rfl

/-- Settles O41: an IDLE listener's DONE removes that identifier from rem, and a BUSY one's is not taken. -/
theorem doneTakesTheListenerOff : Obligations.DoneTakesTheListenerOff := by
  intro s rest j p lid henv hp ha
  rw [step_of_done henv]
  refine ⟨fun hl => ⟨lidRemove p.rem lid, ?_, mem_lidRemove p.rem lid⟩, fun job hl => ?_⟩
  · rw [onDone_of_idle (s := { s with env := rest }) hl hp, Pass.afterDone_of_awaits ha]
  · rw [onDone_of_busy (s := { s with env := rest }) (job := job) (Option.join_eq_some_iff.2 hl)]

end Sys2Proof.Machine
end

section
/-! What a step of a pass leaves alone, and what it puts out (R222). -/

namespace Sys2Proof.Machine

variable {s t : State} {j : Nat} {p : Pass}

theorem PassEffect.g_eq (h : PassEffect j p s t) : t.g = s.g := by cases h <;> simp

theorem PassEffect.pl_eq (h : PassEffect j p s t) : t.pl = s.pl := by cases h <;> simp

theorem PassEffect.hosts_eq (h : PassEffect j p s t) : t.hosts = s.hosts := by cases h <;> simp

/-- Being given the turn changes neither the bus nor who has begun a frame. -/
theorem BusWf.given (h : BusWf s) (a : Agent) (d : Draw) (rest : List EnvEvent) : BusWf (s.given a d rest) :=
  h.same rfl rfl (hasBegun_congr (State.job_given a d rest) rfl)

/-- The frame that a pass ends is a read frame, so its end leaves the chip alone (R51, R222). -/
theorem BusWf.frameEnd_chip (h : BusWf s) (hp : Sparse.read s.passes j = some p) (hb : p.phase = .frameBegun) :
    s.frameEnd.chip = s.chip := by
  have hbegun : HasBegun s (.pass j) := (hasBegun_pass_iff hp).2 hb
  cases hbus : s.bus with
  | idle => exact absurd hbegun (h.not_hasBegun hbus _)
  | busy owner f =>
    simp only [BusWf, hbus] at h
    obtain ⟨-, howner, hread⟩ := h
    obtain ⟨a, rfl⟩ := hread j ((howner _).1 hbegun).symm
    rw [State.frameEnd_of_readFrame hbus, State.released_chip]

theorem PassEffect.chip_eq (h : PassEffect j p s t) (hp : Sparse.read s.passes j = some p) (hw : BusWf s) :
    t.chip = s.chip := by
  cases h with
  | flag r hb | capture r hb | fails hb => exact hw.frameEnd_chip hp hb
  | _ => simp

/-- The outputs of a step of a pass: none, a read of INTF or of INTCAP, or one DISPATCH (R213, R219, R222). -/
theorem PassEffect.trace_cases (h : PassEffect j p s t) :
    t.trace = s.trace ∨ (∃ P, t.trace = s.trace ++ [.frame (.pass j) (readFrame (addrIntf P))]) ∨
      (∃ P, t.trace = s.trace ++ [.frame (.pass j) (readFrame (addrIntcap P))]) ∨
      ∃ lid v pin, t.trace = s.trace ++ [.dispatch j lid v pin] := by
  cases h with
  | begins a ha =>
    rcases ha with rfl | rfl
    · exact .inr (.inl ⟨p.port, rfl⟩)
    · exact .inr (.inr (.inl ⟨p.port, rfl⟩))
  | dispatches u after hu hp lid => exact .inr (.inr (.inr ⟨lid, p.v, p.pin, rfl⟩))
  | _ => exact .inl (by simp)

/-- The turn of a pass is nothing where no such pass is in flight, and else a step of that pass (R33, R212). -/
theorem passTurn_cases {d : Draw} {rest : List EnvEvent} (hturn : TurnComes s (.pass j) d rest) (ht : step s = .next t) :
    t = s.given (.pass j) d rest ∨
      ∃ p, Sparse.read s.passes j = some p ∧ PassEffect j p (s.given (.pass j) d rest) t := by
  rw [step_of_turnComes hturn] at ht
  cases hp : Sparse.read s.passes j with
  | none =>
    simp only [takeTurn, State.given_passes, hp, Host.Outcome.next.injEq] at ht
    exact .inl ht.symm
  | some p =>
    refine .inr ⟨p, rfl, ?_⟩
    have hp' : Sparse.read (s.given (.pass j) d rest).passes j = some p := hp
    cases hf : p.frame with
    | none =>
      rw [takeTurn_pass_of_no_frame hp' hf, Host.Outcome.next.injEq] at ht
      exact ht ▸ routerStep_effect
    | some i =>
      obtain ⟨t', ht', heffect⟩ := exec_pass_effect rfl hp' hf
      rw [takeTurn_pass_of_frame hp' hf, ht', Host.Outcome.next.injEq] at ht
      exact ht ▸ heffect

/-- Settles O44: each effect of a step of a pass leaves these alone; for the chip, `BusWf` says the frame is a read. -/
theorem routerLeavesShadowSetsAndChip : Obligations.RouterLeavesShadowSetsAndChip := by
  intro s t d rest j hturn hw ht
  rcases passTurn_cases hturn ht with rfl | ⟨p, hp, h⟩
  · exact ⟨rfl, rfl, rfl, rfl, rfl, rfl, .inl rfl⟩
  · exact ⟨h.sr_eq, h.g_eq, h.pl_eq, h.topo_eq, h.hosts_eq, h.chip_eq hp (hw.given _ d rest), h.trace_cases⟩

end Sys2Proof.Machine
end

section
/-! The checks of the decode step, in their order (R240, R241, R244, R246, R248): what stands before every command's own
rule, said once for each family of commands, and so what answers a command that a check ends. -/

namespace Sys2Proof.Machine

variable {s : State} {c : Ctx} {i : Instr} {n : Nat}

-- ---- the families ----

/-- A host command that is no construction is a pin command, a commit, a global listener command, or READ_REG (R76). -/
theorem command_families (hf : ¬ IsFrame i) (hn : ¬ IsConstruction i) :
    (∃ n, PinCommand n i) ∨ (∃ k P, i = commitOf k P) ∨ ListenerCommandOn .global i ∨ ∃ a, i = .readReg a := by
  have getter (k n) : PinCommand n (getterOf k n) := .inl ⟨k, rfl⟩
  have setter (k n v) : PinCommand n (setterOf k n v) := .inr (.inl ⟨k, v, rfl⟩)
  cases i with
  | getDir n => exact .inl ⟨n, getter .iodir n⟩
  | getIpol n => exact .inl ⟨n, getter .ipol n⟩
  | getInten n => exact .inl ⟨n, getter .gpinten n⟩
  | getDefval n => exact .inl ⟨n, getter .defval n⟩
  | getIntcon n => exact .inl ⟨n, getter .intcon n⟩
  | getPu n => exact .inl ⟨n, getter .gppu n⟩
  | get n => exact .inl ⟨n, getter .olat n⟩
  | setDir n v => exact .inl ⟨n, setter .iodir n v⟩
  | setIpol n v => exact .inl ⟨n, setter .ipol n v⟩
  | setInten n v => exact .inl ⟨n, setter .gpinten n v⟩
  | setDefval n v => exact .inl ⟨n, setter .defval n v⟩
  | setIntcon n v => exact .inl ⟨n, setter .intcon n v⟩
  | setPu n v => exact .inl ⟨n, setter .gppu n v⟩
  | setOut n v => exact .inl ⟨n, setter .olat n v⟩
  | addPinListener n lid => exact .inl ⟨n, .inr (.inr (.inl ⟨lid, rfl⟩))⟩
  | removePinListener n lid => exact .inl ⟨n, .inr (.inr (.inr (.inl ⟨lid, rfl⟩)))⟩
  | getPinView n => exact .inl ⟨n, .inr (.inr (.inr (.inr rfl)))⟩
  | commitIodirA => exact .inr (.inl ⟨.iodir, .A, rfl⟩)
  | commitIpolA => exact .inr (.inl ⟨.ipol, .A, rfl⟩)
  | commitGpintenA => exact .inr (.inl ⟨.gpinten, .A, rfl⟩)
  | commitDefvalA => exact .inr (.inl ⟨.defval, .A, rfl⟩)
  | commitIntconA => exact .inr (.inl ⟨.intcon, .A, rfl⟩)
  | commitGppuA => exact .inr (.inl ⟨.gppu, .A, rfl⟩)
  | commitOlatA => exact .inr (.inl ⟨.olat, .A, rfl⟩)
  | commitIodirB => exact .inr (.inl ⟨.iodir, .B, rfl⟩)
  | commitIpolB => exact .inr (.inl ⟨.ipol, .B, rfl⟩)
  | commitGpintenB => exact .inr (.inl ⟨.gpinten, .B, rfl⟩)
  | commitDefvalB => exact .inr (.inl ⟨.defval, .B, rfl⟩)
  | commitIntconB => exact .inr (.inl ⟨.intcon, .B, rfl⟩)
  | commitGppuB => exact .inr (.inl ⟨.gppu, .B, rfl⟩)
  | commitOlatB => exact .inr (.inl ⟨.olat, .B, rfl⟩)
  | addGlobalListener lid => exact .inr (.inr (.inl ⟨lid, .inl rfl⟩))
  | removeGlobalListener lid => exact .inr (.inr (.inl ⟨lid, .inr rfl⟩))
  | readReg a => exact .inr (.inr (.inr ⟨a, rfl⟩))
  | constructNone => exact absurd ⟨.none, rfl⟩ hn
  | constructTied => exact absurd ⟨.tied, rfl⟩ hn
  | constructBoth => exact absurd ⟨.both, rfl⟩ hn
  | constructAOnly => exact absurd ⟨.aOnly, rfl⟩ hn
  | constructBOnly => exact absurd ⟨.bOnly, rfl⟩ hn
  | busWrite a v => exact absurd (.inl ⟨a, v, rfl⟩) hf
  | busRead a => exact absurd (.inr ⟨a, rfl⟩) hf

-- ---- what stands before a command's own rule ----

/-- The decode step of a pin command is the lifecycle checks, then the check of its pin, then its own rule (R241, R246). -/
theorem exec_pinCommand_of_decoding (hi : PinCommand n i) (hd : Decoding s c) :
    ∃ k, exec i s = .next (s.enter fun s => s.withPin n k) := by
  obtain ⟨-, hphase⟩ := hd
  rcases hi with ⟨k, rfl⟩ | ⟨k, v, rfl⟩ | ⟨lid, rfl⟩ | ⟨lid, rfl⟩ | rfl
  · by_cases hk : k = .olat
    · subst hk
      exact ⟨_, by simp only [getterOf, exec, execGet, getValue, hphase]; rfl⟩
    · exact ⟨_, by simp only [exec_getterOf hk, getter, hphase]; rfl⟩
  · exact ⟨_, by simp only [exec_setterOf, setter, hphase]; rfl⟩
  · exact ⟨_, by simp only [exec, execAddPinListener, pinListener, hphase]; rfl⟩
  · exact ⟨_, by simp only [exec, execRemovePinListener, pinListener, hphase]; rfl⟩
  · exact ⟨_, by simp only [exec, execGetPinView, hphase]; rfl⟩

/-- The decode step of every command that is no construction begins with the lifecycle checks (R246). -/
theorem exec_command_of_decoding (hf : ¬ IsFrame i) (hn : ¬ IsConstruction i) (hd : Decoding s c) :
    ∃ k, exec i s = .next (s.enter k) := by
  have hphase := hd.2
  rcases command_families hf hn with ⟨n, hpin⟩ | ⟨k, P, rfl⟩ | ⟨lid, rfl | rfl⟩ | ⟨a, rfl⟩
  · obtain ⟨k, hexec⟩ := exec_pinCommand_of_decoding hpin hd
    exact ⟨_, hexec⟩
  · exact ⟨_, by simp only [exec_commitOf, commit, hphase]; rfl⟩
  · exact ⟨_, by simp only [exec, execAddGlobalListener, globalListener, hphase]; rfl⟩
  · exact ⟨_, by simp only [exec, execRemoveGlobalListener, globalListener, hphase]; rfl⟩
  · exact ⟨_, by simp only [exec, execReadReg, hphase]; rfl⟩

-- ---- a check that ends the command ----

/-- While LC is FATAL the first check of the decode step ends every host command, a construction too (R244). -/
theorem exec_of_fatal (hf : ¬ IsFrame i) (hd : Decoding s c) (hl : s.lc = .fatal) :
    exec i s = .next (s.answered c 0x04 0) := by
  have hraise : s.raise .fatal = s.answered c 0x04 0 := State.raise_ctx hd.1 .fatal
  by_cases hn : IsConstruction i
  · obtain ⟨top, rfl⟩ := hn
    rw [exec_constructOf_of_decoding hd, State.enterConstruction_fatal hl, hraise]
  · obtain ⟨k, hexec⟩ := exec_command_of_decoding hf hn hd
    rw [hexec, State.enter_fatal hl, hraise]

/-- Settles O12: a legal word runs as its command, which is no frame; an illegal one has its one error response, and both
are Fatal. -/
theorem fatalBlockAnswersFatal : Obligations.FatalBlockAnswersFatal := by
  refine ⟨fun i c s hf hd hl => exec_of_fatal hf hd hl, fun w s c d rest hturn hjob hl => ?word⟩
  case word =>
    cases hdec : decode w with
    | ok i =>
      have hd : Decoding (s.given (.ctx c) d rest) c := ⟨rfl, State.phase_given hjob d rest⟩
      calc step s
        _ = exec i (s.given (.ctx c) d rest) := (stepRunsTheDecodedInstruction s d rest i).1 c _ hturn hjob hdec
        _ = .next ((s.given (.ctx c) d rest).answered c 0x04 0) := exec_of_fatal (not_isFrame_of_decode hdec) hd hl
    | reject r =>
      have hillegal : legal w = false := by
        rw [← Bool.not_eq_true, legal_iff_decodes, hdec]
        exact fun ⟨_, h⟩ => Decoded.noConfusion h
      rw [step_of_illegal hillegal hturn hjob rfl, if_pos hl]

/-- Settles O13: the lifecycle check of the decode step raises NotConstructed before the command's own rule. -/
theorem unconstructedBlockAnswersNotConstructed : Obligations.UnconstructedBlockAnswersNotConstructed := by
  intro i c s hf hn hd hl
  obtain ⟨k, hexec⟩ := exec_command_of_decoding hf hn hd
  rw [hexec, State.enter_unready hl, State.raise_ctx hd.1]
  rfl

/-- Settles O15: in a ready block the check of the pin comes first, and it does not look at the locks. -/
theorem pinOutOfRangeIsInvalidPin : Obligations.PinOutOfRangeIsInvalidPin := by
  intro n i c s hi hn hd hl
  obtain ⟨k, hexec⟩ := exec_pinCommand_of_decoding hi hd
  rw [hexec, State.enter_ready hl, State.withPin_invalid (by omega), State.raise_ctx hd.1]
  rfl

end Sys2Proof.Machine
end

section
/-! No step stops the machine (R249, R250, R255): each event, and in a turn each agent, has a next state. -/

namespace Sys2Proof.Machine

variable {s : State} {c : Ctx} {j : Nat}

/-- A command word runs as its command, or is answered with its error: either way its context goes on (R250). -/
theorem runJob_goes_on {job : Job} {w : CmdWord} (hcur : s.cur = .ctx c) (hw : job.code = .cmd w) :
    ∃ t, runJob job s = .next t := by
  cases hdec : decode w with
  | ok i =>
    obtain ⟨t, hexec, -⟩ := exec_ctx_effect hcur i
    exact ⟨t, (runJob_of_decodes (by rw [hw]; exact hdec)).trans hexec⟩
  | reject r => exact ⟨_, runJob_of_rejects hw hdec⟩

/-- The one stop of the model, a 24-bit word that is no frame, is shut out where every job is a command word (R82). -/
theorem takeTurn_ctx_goes_on (hcur : s.cur = .ctx c) (hwords : ∀ job, s.job c = some job → ∃ w, job.code = .cmd w) :
    ∃ t, takeTurn (.ctx c) s = .next t := by
  cases hjob : s.job c with
  | none => exact ⟨s, by simp only [takeTurn, hjob]⟩
  | some job =>
    obtain ⟨w, hw⟩ := hwords job hjob
    rw [takeTurn_ctx_of_busy hjob]
    exact runJob_goes_on hcur hw

theorem takeTurn_pass_goes_on (hcur : s.cur = .pass j) : ∃ t, takeTurn (.pass j) s = .next t := by
  cases hp : Sparse.read s.passes j with
  | none => exact ⟨s, by simp only [takeTurn, hp]⟩
  | some p =>
    cases hf : p.frame with
    | none => exact ⟨_, takeTurn_pass_of_no_frame hp hf⟩
    | some i =>
      obtain ⟨t, hexec, -⟩ := exec_pass_effect hcur hp hf
      exact ⟨t, (takeTurn_pass_of_frame hp hf).trans hexec⟩

/-- Settles O7: only a turn runs an instruction, and there `LifecycleWf` says that every job is a command word. -/
theorem everyStepGoesOn : Obligations.EveryStepGoesOn := by
  rintro s ⟨hwords, -⟩
  cases henv : s.env with
  | nil => exact ⟨s, by simp only [step, henv]⟩
  | cons e rest =>
    cases e with
    | turn a d =>
      rw [step_of_turnComes henv]
      cases a with
      | ctx c => exact takeTurn_ctx_goes_on rfl fun job hjob => hwords c job (by rwa [State.job_given] at hjob)
      | pass j => exact takeTurn_pass_goes_on rfl
    | command c w => exact ⟨_, step_of_command henv⟩
    | edge x => exact ⟨_, step_of_edge henv⟩
    | done j => exact ⟨_, step_of_done henv⟩
    | reset landed => exact ⟨_, by simp only [step, henv]; rfl⟩

end Sys2Proof.Machine
end

section
/-! A reset of the block (R270): the state that it leads to, whatever comes before it, and that the state right after reset
meets the invariants. -/

namespace Sys2Proof.Machine

variable {s : State}

-- ---- what the state right after reset holds ----

@[simp] theorem State.job_reset (c : Ctx) : State.reset.job c = none := by cases c <;> rfl

@[simp] theorem State.members_reset (u : SetId) : State.reset.members u = [] := by
  cases u <;> simp [State.members, State.reset]

@[simp] theorem State.lock_reset (u : SetId) : State.reset.lock u = .free := by
  cases u <;> simp [State.lock, State.reset]

/-- Where nobody is BUSY and no pass is in flight, nobody has begun a frame (R47). -/
theorem not_hasBegun_of_nothing (hj : ∀ c, s.job c = none) (hp : s.passes = []) (a : Agent) : ¬ HasBegun s a := by
  cases a <;> simp [HasBegun, hj, hp]

/-- Settles O46: at reset nothing is in flight, no lock is HELD, and every set and map is empty. -/
theorem resetStateMeetsTheInvariants : Obligations.ResetStateMeetsTheInvariants := by
  have hdispatching : Dispatching State.reset := .of_nothing rfl rfl State.lock_reset
  have hsets : SetsWf State.reset := fun u => by rw [State.members_reset]; rfl
  have hbus : BusWf State.reset := ⟨by decide, not_hasBegun_of_nothing State.job_reset rfl⟩
  have hcs : ChipSelectWf State.reset := ⟨by decide, by simp⟩
  have hlife : LifecycleWf State.reset := .of_nothing State.job_reset (by decide) rfl
  have hended : RunEnded State.reset := ⟨State.job_reset, rfl, rfl, by simp [NothingFurther, State.reset]⟩
  exact ⟨hsets, ⟨rfl, rfl, rfl, rfl⟩, hdispatching.names, hdispatching.locks, hdispatching.dispatches, hbus, hcs, hlife,
    fun _ => ⟨rfl, State.members_reset⟩, rfl, hended⟩

-- ---- what a reset leads to ----

/-- Where a reset comes first, the step is that event's (R270). -/
theorem step_of_reset {landed : Bool} {rest : List EnvEvent} (h : s.env = .reset landed :: rest) :
    step s = .next (blockReset landed { s with env := rest }) := by
  simp only [step, h]
  rfl

/-- After a reset every lock is FREE (R270). -/
@[simp] theorem State.lock_blockReset (landed : Bool) (u : SetId) : (blockReset landed s).lock u = .free :=
  (State.lock_congr (s := State.reset) rfl rfl u).trans (State.lock_reset u)

/-- After a reset every listener set is empty (R270). -/
@[simp] theorem State.members_blockReset (landed : Bool) (u : SetId) : (blockReset landed s).members u = [] :=
  (State.members_congr (s := State.reset) rfl rfl u).trans (State.members_reset u)

/-- A reset leaves in the chip what the end of a failed frame leaves there (R271, R51). -/
theorem chip_blockReset (landed : Bool) (s : State) : (blockReset landed s).chip = chipAfter s.bus (.fail landed) s.chip :=
  rfl

/-- Settles O45: the state after a reset is `State.reset` in every field of R20; on an IDLE bus no frame is cut short. -/
theorem resetGivesTheResetValues : Obligations.ResetGivesTheResetValues := by
  intro s landed rest h
  have hchip (hb : s.bus = .idle) : (blockReset landed { s with env := rest }).chip = s.chip := by
    simp only [chip_blockReset, hb, chipAfter_idle]
  exact ⟨_, step_of_reset h, Shadow.get_reset .iodir .A, Shadow.get_reset .iodir .B,
    fun k P hk => (Shadow.get_reset k P).trans (if_neg hk), rfl, fun p => State.members_blockReset landed (.pin p), rfl, rfl,
    rfl, rfl, rfl, rfl, fun p => State.lock_blockReset landed (.pin p), rfl, fun k => rfl, rfl, hchip⟩

/-- Settles O58: a write frame that a reset cuts short leaves what a failed write frame leaves. -/
theorem resetDropsListenersAndCommands : Obligations.ResetDropsListenersAndCommands := by
  intro s landed rest h
  refine ⟨_, step_of_reset h, rfl, State.job_blockReset _ landed, rfl, rfl, rfl, fun owner a v hb x => ?chip⟩
  case chip =>
    simp only [chip_blockReset, hb]
    exact read_chipAfter_writeFrame_fail owner a v landed s.chip x

end Sys2Proof.Machine
end

section
/-! The end of a run (R293): where nothing goes on, a step only takes the environment's next event, or takes off the context
of a late DONE. -/

namespace Sys2Proof.Machine

variable {s t : State} {j : Nat} {p : Pass}

-- ---- ended, halted and stuck ----

theorem Sparse.eq_nil_of_read {α : Type} {m : Sparse α} (h : ∀ k, Sparse.read m k = none) : m = [] := by
  cases m with
  | nil => rfl
  | cons e m => simpa [Sparse.read] using h e.1

/-- An agent that is stuck is a BUSY context or a pass in flight (R52, R177). -/
theorem AgentStuck.exists_inFlight {a : Agent} (h : AgentStuck s a) :
    (∃ c, s.job c ≠ none) ∨ ∃ j, Sparse.read s.passes j ≠ none := by
  have ofWaits {j} (h : WaitsForOwnPass s j) : ∃ j, Sparse.read s.passes j ≠ none := by
    obtain ⟨p, lid, u, job, i, hp, -⟩ := h
    exact ⟨j, by simp [hp]⟩
  cases a with
  | ctx c =>
    rcases h with ⟨job, hj, -⟩ | ⟨j, -, hown⟩
    · exact .inl ⟨c, by simp [hj]⟩
    · exact .inr (ofWaits hown)
  | pass j =>
    rcases h with ⟨p, hp, -⟩ | hown
    · exact .inr ⟨j, by simp [hp]⟩
    · exact .inr (ofWaits hown)

/-- R293 lists what holds where a run has ended, and that leaves no agent stuck (log entry 19). -/
theorem RunEnded.not_agentStuck (h : RunEnded s) (a : Agent) : ¬ AgentStuck s a := by
  obtain ⟨hjobs, hpasses, -, -⟩ := h
  intro ha
  rcases ha.exists_inFlight with ⟨c, hc⟩ | ⟨j, hj⟩
  · exact hc (hjobs c)
  · exact hj (by simp [hpasses])

theorem RunEnded.halted (h : RunEnded s) : RunHalted s := by
  obtain ⟨hjobs, hpasses, hbus, hnone⟩ := h
  exact ⟨fun c hc => absurd (hjobs c) hc, fun j p hp => by simp [hpasses] at hp, hbus, hnone⟩

/-- Where nothing goes on and no agent is stuck, no context is BUSY and no pass is in flight (R293). -/
theorem runEnded_iff_halted : RunEnded s ↔ RunHalted s ∧ ∀ a, ¬ AgentStuck s a := by
  refine ⟨fun h => ⟨h.halted, h.not_agentStuck⟩, fun ⟨⟨hctx, hpass, hbus, hnone⟩, hstuck⟩ => ?_⟩
  refine ⟨fun c => ?job, ?passes, hbus, hnone⟩
  case job => exact not_not.1 fun hc => hstuck _ (hctx c hc)
  case passes =>
    exact Sparse.eq_nil_of_read fun j => Option.eq_none_iff_forall_ne_some.2 fun p hp => hstuck _ (hpass j p hp)

theorem not_safe_iff : ¬ Safe s ↔ s.faults.busConflict = true ∨ s.faults.routerIo = true := by
  rcases hf : s.faults with ⟨conflict, routerIo⟩
  cases conflict <;> cases routerIo <;> simp [Safe, hf]

theorem runEndedBadly_iff : RunEndedBadly s ↔ RunEnded s ∧ ¬ Safe s :=
  and_congr_right fun h => or_iff_left fun ⟨a, ha⟩ => h.not_agentStuck a ha

theorem RunStuck.not_ended (h : RunStuck s) : ¬ RunEnded s := by
  obtain ⟨-, a, ha⟩ := h
  exact fun hend => hend.not_agentStuck a ha

-- ---- a step where nothing goes on ----

/-- The step from `s` to `t` takes the environment's next event, if there is one, and changes nothing else of the block, but
that a late DONE takes off the IDLE context it names (R219, R223; log entry 15). -/
structure OnlyTakesEvent (s t : State) : Prop where
  env : t.env ⊆ s.env
  listeners : t.listeners = s.listeners ∨ ∃ j, s.env = .done j :: t.env ∧ Sparse.read s.listeners j = some none ∧
    Sparse.read s.passes j = none ∧ t.listeners = Sparse.clear s.listeners j
  rest : t = { s with env := t.env, cur := t.cur, draw := t.draw, listeners := t.listeners }

theorem OnlyTakesEvent.given {a : Agent} {d : Draw} {rest : List EnvEvent} (h : TurnComes s a d rest) :
    OnlyTakesEvent s (s.given a d rest) where
  env := by
    have henv : s.env = .turn a d :: rest := h
    simp [henv]
  listeners := .inl rfl
  rest := rfl

/-- The context of a stuck agent runs a legal command, and its turns change nothing (R52, R177). -/
theorem AgentStuck.idleInItsTurns {c : Ctx} (h : AgentStuck s (.ctx c)) (hw : LifecycleWf s) :
    ∃ job i, s.job c = some job ∧ decodeCode job.code = .ok i ∧ IdleInItsTurns s c i := by
  rcases h with ⟨job, hj, hp⟩ | ⟨j, rfl, p, lid, u, job, i, -, -, -, hheld, hj, hwait, hi, hu⟩
  · obtain ⟨-, hpast, -⟩ := hw
    obtain ⟨-, i, hi, -⟩ := hpast c job hj (by simp [hp])
    exact ⟨job, i, hj, hi, idleInItsTurns_of_stuck hj hp⟩
  · exact ⟨job, i, hj, hi, idleInItsTurns_of_held hj hwait hu hheld⟩

/-- A stuck pass takes no step, and no DONE comes for it: it awaits none, or its listener's context is BUSY (R52, R177). -/
theorem AgentStuck.pass_waits (h : AgentStuck s (.pass j)) (hd : DispatchWf s) (hp : Sparse.read s.passes j = some p) :
    p.waits ∧ Sparse.read s.listeners j ≠ some none := by
  rcases h with ⟨q, hq, hphase⟩ | ⟨q, lid, u, job, i, hq, hawait, -, -, hj, -⟩
  all_goals obtain rfl : p = q := Option.some.inj (hp.symm.trans hq)
  · exact ⟨.inl hphase, by simp [hd.no_listener hp (by simp [hphase])]⟩
  · exact ⟨.inr ⟨lid, hawait⟩, fun hidle => by simp [State.job, hidle] at hj⟩

/-- Where nothing goes on, each effect of a step but a reset is the taking of the event, or cannot happen. -/
theorem RunHalted.onlyTakesEvent (h : RunHalted s) (ht : StepEffect s t) (hd : DispatchWf s) (hw : LifecycleWf s)
    (hr : ¬ ResetComes s) : OnlyTakesEvent s t := by
  obtain ⟨hctx, hpass, -, hnone⟩ := h
  have stuck {c job} (hj : s.job c = some job) : ∃ i, decodeCode job.code = .ok i ∧ IdleInItsTurns s c i := by
    obtain ⟨job', i, hj', hi, hidle⟩ := (hctx c (by simp [hj])).idleInItsTurns hw
    obtain rfl : job = job' := Option.some.inj (hj.symm.trans hj')
    exact ⟨i, hi, hidle⟩
  cases ht with
  | quiet he => exact ⟨List.Subset.refl _, .inl rfl, rfl⟩
  | dropped e rest he => exact ⟨by simp [he], .inl rfl, rfl⟩
  | noTurn a d rest he => exact .given he
  | command c w rest he => exact absurd rfl ((hnone (.command c w) (by simp [he])).1 c w)
  | edge x rest P queue he => exact absurd rfl ((hnone (.edge x) (by simp [he])).2 x)
  | reset landed rest he => exact absurd ⟨landed, rest, he⟩ hr
  | run c d rest job i t he hj hi ht =>
    obtain ⟨i', hi', hidle⟩ := stuck hj
    obtain rfl : i = i' := Decoded.ok.inj (hi.symm.trans hi')
    exact hidle d rest t ht ▸ .given he
  | illegal c d rest job w r he hj hcode hreject =>
    obtain ⟨i, hi, -⟩ := stuck hj
    rw [hcode] at hi
    cases hreject.symm.trans hi
  | pass j d rest p t he hp ht => exact ht.eq_of_waits ((hpass j p hp).pass_waits hd hp).1 ▸ .given he
  | done j rest p he hl hp => exact absurd hl ((hpass j p hp).pass_waits hd hp).2
  | doneLate j rest he hl hp => exact ⟨by simp [he], .inr ⟨j, he, hl, hp, rfl⟩, rfl⟩

-- ---- what such a step keeps ----

namespace OnlyTakesEvent

variable (h : OnlyTakesEvent s t)
include h

theorem passes_eq : t.passes = s.passes := by rw [h.rest]

theorem bus_eq : t.bus = s.bus := by rw [h.rest]

theorem faults_eq : t.faults = s.faults := by rw [h.rest]

theorem lock_eq (u : SetId) : t.lock u = s.lock u := State.lock_congr (by rw [h.rest]) (by rw [h.rest]) u

theorem job_eq (c : Ctx) : t.job c = s.job c := by
  have hhosts : t.hosts = s.hosts := by rw [h.rest]
  rcases h.listeners with hl | ⟨j, -, hidle, -, hl⟩
  · exact State.job_congr hhosts hl c
  · exact State.job_clear_listener hidle hhosts hl c

theorem agentStuck_iff (a : Agent) : AgentStuck t a ↔ AgentStuck s a := by
  cases a <;> simp only [AgentStuck, CtxStuck, PassStuck, WaitsForOwnPass, h.job_eq, h.passes_eq, h.lock_eq]

theorem nothingFurther (hn : NothingFurther s) : NothingFurther t := fun e he => hn e (h.env he)

theorem runHalted (hs : RunHalted s) : RunHalted t := by
  obtain ⟨hctx, hpass, hbus, hnone⟩ := hs
  refine ⟨fun c hc => ?_, fun j p hp => ?_, h.bus_eq.trans hbus, h.nothingFurther hnone⟩
  · exact (h.agentStuck_iff _).2 (hctx c (h.job_eq c ▸ hc))
  · exact (h.agentStuck_iff _).2 (hpass j p (h.passes_eq ▸ hp))

theorem runEnded (hs : RunEnded s) : RunEnded t :=
  runEnded_iff_halted.2 ⟨h.runHalted hs.halted, fun a => mt (h.agentStuck_iff a).1 (hs.not_agentStuck a)⟩

theorem runEndedBadly (hs : RunEndedBadly s) : RunEndedBadly t := by
  obtain ⟨hend, hbad⟩ := runEndedBadly_iff.1 hs
  exact runEndedBadly_iff.2 ⟨h.runEnded hend, by rwa [Safe, h.faults_eq]⟩

theorem runStuck (hs : RunStuck s) : RunStuck t := by
  obtain ⟨hhalted, a, ha⟩ := hs
  exact ⟨h.runHalted hhalted, a, (h.agentStuck_iff a).2 ha⟩

end OnlyTakesEvent

/-- Settles O60: where nothing goes on a step only takes an event, and that keeps each of the ways of being at a halt. -/
theorem endedRunsStayEnded : Obligations.EndedRunsStayEnded := by
  intro s
  have hbadly : RunEndedBadly s ↔ RunEnded s ∧ (s.faults.busConflict = true ∨ s.faults.routerIo = true) := by
    rw [runEndedBadly_iff, not_safe_iff]
  refine ⟨runEnded_iff_halted, hbadly, fun hs => ⟨hs.not_ended, mt And.left hs.not_ended⟩, fun t hd hw hh hstep hr => ?step⟩
  case step =>
    have ht : OnlyTakesEvent s t := hh.onlyTakesEvent (step_effect hstep) hd hw hr
    exact ⟨ht.runHalted hh, ht.runEnded, ht.runEndedBadly, ht.runStuck, ht.job_eq, ht.listeners, ht.rest⟩

end Sys2Proof.Machine
end
